-- ==== Sys2Proof/Word.lean ====
section
/-! DEFINITION. The widths of the frame codec's values (spec/00_scope.md R8): bytes, the 16-bit device id,
the 4-bit byte index, the 80-bit frame word and the 5-bit selector word of the decoder. -/

namespace Sys2Proof

/-- R8: a byte is an unsigned integer in 0..255. -/
abbrev Byte := BitVec 8

/-- R23, R29: a `device_id`. -/
abbrev DevId := BitVec 16

/-- R25, R32: a byte index, `IDX_W = 4` bits (R6). -/
abbrev Idx := BitVec 4

/-- R81: the ten bytes of a frame as one word, offset 0 in the most significant byte. -/
abbrev FrameWord := BitVec 80

/-- R96: the decoder's selector word: `rx_last` in bit 4, `DEC.IDX` below it. -/
abbrev DecSelector := BitVec 5

end Sys2Proof
end

