-- ==== Sys2Proof/Config.lean ====
section
/-! DEFINITION. The parameters of the frame (spec/00_scope.md R6, R7), at the values R6 gives. None is open, so
there is no free value here (log entry 16). -/

namespace Sys2Proof.Config

/-- `FRAME_LEN` (R6): bytes in every frame. -/
def frameLen : Nat := 10

/-- `PAYLOAD_LEN` (R6): bytes of payload. -/
def payloadLen : Nat := 4

/-- `HEAD` (R6, R34): the start marker, at offset 0. -/
def head : Byte := 0xAA#8

/-- `TAIL` (R6, R34): the end marker, at offset 9. -/
def tail : Byte := 0xAB#8

/-- `CMD_OUT` (R6): `command_id` of an outbound command. -/
def cmdOut : Byte := 0xB4#8

/-- `CMD_SAMPLE` (R6): `command_id` of a sample response. -/
def cmdSample : Byte := 0xC0#8

/-- `CMD_ACK` (R6): `command_id` of a setting-acknowledgement response. -/
def cmdAck : Byte := 0xC5#8

/-- `WILDCARD_ID` (R6): an ordinary value for the codec (R93). -/
def wildcardId : DevId := 0xFFFF#16

end Sys2Proof.Config
end

