-- ==== Sys2Proof/Syntax.lean ====
section
/-! DEFINITION. The operations of the block: one constructor of `Instr` per row of spec/opcode_table.json
(spec/30_encoding.md R84, R96), and the records their operands are. -/

namespace Sys2Proof

/-- R22, R28: the four payload bytes, `p0` at offset 2 to `p3` at offset 5. -/
structure Payload where
  p0 : Byte
  p1 : Byte
  p2 : Byte
  p3 : Byte
deriving DecidableEq, Repr

/-- R35: the fields of an `enc_req` event. -/
structure EncReq where
  cmd   : Byte
  plen  : Byte
  pdata : Payload
  dev   : DevId
deriving DecidableEq, Repr

/-- R112: the two instances of the CSUM accumulator. -/
inductive CsumUnit where
  | enc
  | dec
deriving DecidableEq, Repr

/-- The rows of spec/opcode_table.json. An operand is what the row's word, its port event or (for the CSUM
micro-operations, R112 to R114) the operation itself carries. -/
inductive Instr where
  -- R84: the frame kinds, with their payload, `device_id` and `checksum`
  | frameCmd (p : Payload) (dev : DevId) (csum : Byte)
  | frameSample (p : Payload) (dev : DevId) (csum : Byte)
  | frameAck (p : Payload) (dev : DevId) (csum : Byte)
  | frameAny (cmd : Byte) (p : Payload) (dev : DevId) (csum : Byte)
  -- R230, R131
  | reset
  | encLoad (r : EncReq)
  -- R134 to R143
  | encEmitHead
  | encEmitCmd
  | encEmitP0
  | encEmitP1
  | encEmitP2
  | encEmitP3
  | encEmitDevh
  | encEmitDevl
  | encEmitCsum
  | encEmitTail
  -- R162 to R172, `b` = `rx_data`
  | decByteHead (b : Byte)
  | decByteCmd (b : Byte)
  | decByteP0 (b : Byte)
  | decByteP1 (b : Byte)
  | decByteP2 (b : Byte)
  | decByteP3 (b : Byte)
  | decByteDevh (b : Byte)
  | decByteDevl (b : Byte)
  | decByteCsum (b : Byte)
  | decByteTailNotlast (b : Byte)
  | decByteOver (b : Byte)
  -- R173 to R177; `i` = the three low bits of `DEC.IDX`, free in the row's pattern 10xxx
  | decByteTailLast (b : Byte)
  | decByteShortLast (i : BitVec 3) (b : Byte)
  | decByteShort8Last (b : Byte)
  | decByteOverLast (b : Byte)
  -- R112 to R114
  | csumClr (u : CsumUnit)
  | csumAdd (u : CsumUnit) (b : Byte)
  | csumCmp (u : CsumUnit) (c : Byte)
deriving DecidableEq, Repr

end Sys2Proof
end

