-- ==== Sys2Proof/WellFormed.lean ====
section
/-! DEFINITION. Which terms of `Instr` are instructions of the table. Widths are in the types; the one relation
between operands is that of FRAME.ANY, whose `command_id` is one that no earlier row matches (R84). -/

namespace Sys2Proof

/-- R84: the three `command_id` values that have a row of their own. -/
def listedCmd (c : Byte) : Bool :=
  c == Config.cmdOut || c == Config.cmdSample || c == Config.cmdAck

/-- A term of `Instr` that is an instruction of the table. -/
def Instr.wellFormed : Instr → Bool
  | .frameAny cmd _ _ _ => !listedCmd cmd
  | .frameCmd _ _ _ | .frameSample _ _ _ | .frameAck _ _ _ => true
  | .reset | .encLoad _ => true
  | .encEmitHead | .encEmitCmd | .encEmitP0 | .encEmitP1 | .encEmitP2 | .encEmitP3
  | .encEmitDevh | .encEmitDevl | .encEmitCsum | .encEmitTail => true
  | .decByteHead _ | .decByteCmd _ | .decByteP0 _ | .decByteP1 _ | .decByteP2 _ | .decByteP3 _
  | .decByteDevh _ | .decByteDevl _ | .decByteCsum _ | .decByteTailNotlast _ | .decByteOver _ => true
  | .decByteTailLast _ | .decByteShortLast _ _ | .decByteShort8Last _ | .decByteOverLast _ => true
  | .csumClr _ | .csumAdd _ _ | .csumCmp _ _ => true

end Sys2Proof
end

