-- ==== Sys2Proof/Decode.lean ====
section
/-! DEFINITION. How a row of spec/opcode_table.json is selected (spec/30_encoding.md R81 to R84, R90, R96), total
on any bytes and any selector word, and the encoder beside it. There is no opcode stream: a `Code` is what a
row's `match` and `mask` apply to, with the operands of the port event that brings it. -/

namespace Sys2Proof

/-- R86: the byte of a `device_id` that goes to offset 6. -/
def devHigh (d : DevId) : Byte := d.extractLsb' 8 8

/-- R86: the byte of a `device_id` that goes to offset 7. -/
def devLow (d : DevId) : Byte := d.extractLsb' 0 8

/-- R86, R90: a `device_id` from the bytes at offsets 6 and 7, the high byte first. -/
def devOf (h l : Byte) : DevId := h ++ l

/-- R81: the byte of offset `k` of a frame word, `W[79 - 8k : 72 - 8k]`. -/
def frameByte (w : FrameWord) (k : Nat) : Byte := w.extractLsb' (72 - 8 * k) 8

/-- R81: the ten bytes of a frame word, offset 0 first. -/
def bytesOfWord (w : FrameWord) : List Byte :=
  [frameByte w 0, frameByte w 1, frameByte w 2, frameByte w 3, frameByte w 4,
   frameByte w 5, frameByte w 6, frameByte w 7, frameByte w 8, frameByte w 9]

/-- R81: the frame word of ten bytes, offset 0 in the most significant byte. -/
def wordOfBytes (b0 b1 b2 b3 b4 b5 b6 b7 b8 b9 : Byte) : FrameWord :=
  b0 ++ b1 ++ b2 ++ b3 ++ b4 ++ b5 ++ b6 ++ b7 ++ b8 ++ b9

/-- R60: the ten bytes of a frame with the given fields, in offset order. -/
def frameBytes (cmd : Byte) (p : Payload) (dev : DevId) (csum : Byte) : List Byte :=
  [Config.head, cmd, p.p0, p.p1, p.p2, p.p3, devHigh dev, devLow dev, csum, Config.tail]

/-- R82: the envelope's mask. -/
def envelopeMask : FrameWord := 0xFF0000000000000000FF#80

/-- R82: the envelope's match. -/
def envelopeMatch : FrameWord := 0xAA0000000000000000AB#80

/-- R84: the mask of the three listed frame kinds. -/
def kindMask : FrameWord := 0xFFFF00000000000000FF#80

/-- R84: `FRAME.CMD`. -/
def cmdMatch : FrameWord := 0xAAB400000000000000AB#80

/-- R84: `FRAME.SAMPLE`. -/
def sampleMatch : FrameWord := 0xAAC000000000000000AB#80

/-- R84: `FRAME.ACK`. -/
def ackMatch : FrameWord := 0xAAC500000000000000AB#80

/-- What selects a row (R96): a block of bytes (format FRAME10), an `rst` or `enc_req` event (EVENT), a `tx`
event with the value of `ENC.IDX` (ENC_IDX), or an `rx` event with `rx_last` above `DEC.IDX` (DEC_LAST_IDX). The
MICRO rows have no selector, so no `Code`. -/
inductive Code where
  | block (bs : List Byte)
  | rst
  | encReq (r : EncReq)
  | tx (idx : Idx)
  | rx (sel : DecSelector) (b : Byte)
deriving DecidableEq, Repr

/-- Why no row matches. -/
inductive DecodeError where
  /-- R91: a block that is not ten bytes long. -/
  | wrongLength
  /-- R91: ten bytes, but a marker is wrong. -/
  | badMarker
  /-- R25: `ENC.IDX` above 9. -/
  | noSuchEncIdx
  /-- R32: `DEC.IDX` above 10. -/
  | noSuchDecIdx
deriving DecidableEq, Repr

/-- R81 to R84, R90: the frame kind of a block, by mask and match on its word, FRAME.ANY last. -/
def decodeFrame : List Byte → Except DecodeError Instr
  | [b0, b1, b2, b3, b4, b5, b6, b7, b8, b9] =>
    let w := wordOfBytes b0 b1 b2 b3 b4 b5 b6 b7 b8 b9
    let p : Payload := ⟨b2, b3, b4, b5⟩
    let dev := devOf b6 b7
    if w &&& kindMask = cmdMatch then .ok (.frameCmd p dev b8)
    else if w &&& kindMask = sampleMatch then .ok (.frameSample p dev b8)
    else if w &&& kindMask = ackMatch then .ok (.frameAck p dev b8)
    else if w &&& envelopeMask = envelopeMatch then .ok (.frameAny b1 p dev b8)
    else .error .badMarker
  | _ => .error .wrongLength

/-- R96: the sub-case of `ENC.EMIT` for a value of `ENC.IDX`. -/
def decodeTx (idx : Idx) : Except DecodeError Instr :=
  match idx.toNat with
  | 0 => .ok .encEmitHead
  | 1 => .ok .encEmitCmd
  | 2 => .ok .encEmitP0
  | 3 => .ok .encEmitP1
  | 4 => .ok .encEmitP2
  | 5 => .ok .encEmitP3
  | 6 => .ok .encEmitDevh
  | 7 => .ok .encEmitDevl
  | 8 => .ok .encEmitCsum
  | 9 => .ok .encEmitTail
  | _ => .error .noSuchEncIdx

/-- R96: the sub-case of `DEC.BYTE` for a selector word. -/
def decodeRx (sel : DecSelector) (b : Byte) : Except DecodeError Instr :=
  if sel &&& 0x18#5 = 0x10#5 then .ok (.decByteShortLast (sel.extractLsb' 0 3) b)
  else
    match sel.toNat with
    | 0x00 => .ok (.decByteHead b)
    | 0x01 => .ok (.decByteCmd b)
    | 0x02 => .ok (.decByteP0 b)
    | 0x03 => .ok (.decByteP1 b)
    | 0x04 => .ok (.decByteP2 b)
    | 0x05 => .ok (.decByteP3 b)
    | 0x06 => .ok (.decByteDevh b)
    | 0x07 => .ok (.decByteDevl b)
    | 0x08 => .ok (.decByteCsum b)
    | 0x09 => .ok (.decByteTailNotlast b)
    | 0x0A => .ok (.decByteOver b)
    | 0x18 => .ok (.decByteShort8Last b)
    | 0x19 => .ok (.decByteTailLast b)
    | 0x1A => .ok (.decByteOverLast b)
    | _ => .error .noSuchDecIdx

/-- The row a `Code` selects, total, rejecting by name. -/
def decode : Code → Except DecodeError Instr
  | .block bs => decodeFrame bs
  | .rst => .ok .reset
  | .encReq r => .ok (.encLoad r)
  | .tx idx => decodeTx idx
  | .rx sel b => decodeRx sel b

/-- The `Code` of an instruction, from the same tables; none for the CSUM micro-operations, which have no
encoding (R112 to R114). -/
def encode : Instr → Option Code
  | .frameCmd p dev csum => some (.block (frameBytes Config.cmdOut p dev csum))
  | .frameSample p dev csum => some (.block (frameBytes Config.cmdSample p dev csum))
  | .frameAck p dev csum => some (.block (frameBytes Config.cmdAck p dev csum))
  | .frameAny cmd p dev csum => some (.block (frameBytes cmd p dev csum))
  | .reset => some .rst
  | .encLoad r => some (.encReq r)
  | .encEmitHead => some (.tx 0#4)
  | .encEmitCmd => some (.tx 1#4)
  | .encEmitP0 => some (.tx 2#4)
  | .encEmitP1 => some (.tx 3#4)
  | .encEmitP2 => some (.tx 4#4)
  | .encEmitP3 => some (.tx 5#4)
  | .encEmitDevh => some (.tx 6#4)
  | .encEmitDevl => some (.tx 7#4)
  | .encEmitCsum => some (.tx 8#4)
  | .encEmitTail => some (.tx 9#4)
  | .decByteHead b => some (.rx 0x00#5 b)
  | .decByteCmd b => some (.rx 0x01#5 b)
  | .decByteP0 b => some (.rx 0x02#5 b)
  | .decByteP1 b => some (.rx 0x03#5 b)
  | .decByteP2 b => some (.rx 0x04#5 b)
  | .decByteP3 b => some (.rx 0x05#5 b)
  | .decByteDevh b => some (.rx 0x06#5 b)
  | .decByteDevl b => some (.rx 0x07#5 b)
  | .decByteCsum b => some (.rx 0x08#5 b)
  | .decByteTailNotlast b => some (.rx 0x09#5 b)
  | .decByteOver b => some (.rx 0x0A#5 b)
  | .decByteTailLast b => some (.rx 0x19#5 b)
  | .decByteShortLast i b => some (.rx (0b10#2 ++ i) b)
  | .decByteShort8Last b => some (.rx 0x18#5 b)
  | .decByteOverLast b => some (.rx 0x1A#5 b)
  | .csumClr _ => none
  | .csumAdd _ _ => none
  | .csumCmp _ _ => none

/-- The `Code` of a word of spec/opcode_table.json of `nbits` bits (the row's bits, in whole bytes), its operand
fields 0: 80 bits are a FRAME10 word, 8 bits a selector word. The table does not say the port, so an 8-bit word
below 10, which both ENC_IDX and DEC_LAST_IDX list, is taken as the earlier row of the table, ENC_IDX (log
entry 17); the unrounded widths 4 and 5 tell the two apart. Width 0 is the first EVENT row, RESET. -/
def tableCode (nbits w : Nat) : Option Code :=
  if nbits = 80 then
    if w < 2 ^ 80 then some (.block (bytesOfWord (BitVec.ofNat 80 w))) else none
  else if nbits = 0 then some .rst
  else if nbits = 4 then (if w < 16 then some (.tx (BitVec.ofNat 4 w)) else none)
  else if nbits = 5 then (if w < 32 then some (.rx (BitVec.ofNat 5 w) 0#8) else none)
  else if nbits = 8 then
    if w < 10 then some (.tx (BitVec.ofNat 4 w))
    else if w < 32 then some (.rx (BitVec.ofNat 5 w) 0#8)
    else none
  else none

/-- The instruction the decoder reads from a word of spec/opcode_table.json. -/
def decodeTableWord (nbits w : Nat) : Option Instr :=
  match tableCode nbits w with
  | none => none
  | some c => (decode c).toOption

/-- The formats of spec/opcode_table.json (R96). -/
inductive Format where
  | frame10
  | event
  | encIdx
  | decLastIdx
  | micro
deriving DecidableEq, Repr

/-- One row of spec/opcode_table.json: its name, its format, and the mask and match on the format's word. -/
structure TableRow where
  mnemonic : String
  format   : Format
  mask     : Nat
  value    : Nat
deriving DecidableEq, Repr

/-- The row of spec/opcode_table.json an instruction is of, with the table's own mask and match. -/
def Instr.row : Instr → TableRow
  | .frameCmd _ _ _ => ⟨"FRAME.CMD", .frame10, 0xFFFF00000000000000FF, 0xAAB400000000000000AB⟩
  | .frameSample _ _ _ => ⟨"FRAME.SAMPLE", .frame10, 0xFFFF00000000000000FF, 0xAAC000000000000000AB⟩
  | .frameAck _ _ _ => ⟨"FRAME.ACK", .frame10, 0xFFFF00000000000000FF, 0xAAC500000000000000AB⟩
  | .frameAny _ _ _ _ => ⟨"FRAME.ANY", .frame10, 0xFF0000000000000000FF, 0xAA0000000000000000AB⟩
  | .reset => ⟨"RESET", .event, 0, 0⟩
  | .encLoad _ => ⟨"ENC.LOAD", .event, 0, 0⟩
  | .encEmitHead => ⟨"ENC.EMIT.HEAD", .encIdx, 0xF, 0x0⟩
  | .encEmitCmd => ⟨"ENC.EMIT.CMD", .encIdx, 0xF, 0x1⟩
  | .encEmitP0 => ⟨"ENC.EMIT.P0", .encIdx, 0xF, 0x2⟩
  | .encEmitP1 => ⟨"ENC.EMIT.P1", .encIdx, 0xF, 0x3⟩
  | .encEmitP2 => ⟨"ENC.EMIT.P2", .encIdx, 0xF, 0x4⟩
  | .encEmitP3 => ⟨"ENC.EMIT.P3", .encIdx, 0xF, 0x5⟩
  | .encEmitDevh => ⟨"ENC.EMIT.DEVH", .encIdx, 0xF, 0x6⟩
  | .encEmitDevl => ⟨"ENC.EMIT.DEVL", .encIdx, 0xF, 0x7⟩
  | .encEmitCsum => ⟨"ENC.EMIT.CSUM", .encIdx, 0xF, 0x8⟩
  | .encEmitTail => ⟨"ENC.EMIT.TAIL", .encIdx, 0xF, 0x9⟩
  | .decByteHead _ => ⟨"DEC.BYTE.HEAD", .decLastIdx, 0x1F, 0x00⟩
  | .decByteCmd _ => ⟨"DEC.BYTE.CMD", .decLastIdx, 0x1F, 0x01⟩
  | .decByteP0 _ => ⟨"DEC.BYTE.P0", .decLastIdx, 0x1F, 0x02⟩
  | .decByteP1 _ => ⟨"DEC.BYTE.P1", .decLastIdx, 0x1F, 0x03⟩
  | .decByteP2 _ => ⟨"DEC.BYTE.P2", .decLastIdx, 0x1F, 0x04⟩
  | .decByteP3 _ => ⟨"DEC.BYTE.P3", .decLastIdx, 0x1F, 0x05⟩
  | .decByteDevh _ => ⟨"DEC.BYTE.DEVH", .decLastIdx, 0x1F, 0x06⟩
  | .decByteDevl _ => ⟨"DEC.BYTE.DEVL", .decLastIdx, 0x1F, 0x07⟩
  | .decByteCsum _ => ⟨"DEC.BYTE.CSUM", .decLastIdx, 0x1F, 0x08⟩
  | .decByteTailNotlast _ => ⟨"DEC.BYTE.TAIL.NOTLAST", .decLastIdx, 0x1F, 0x09⟩
  | .decByteOver _ => ⟨"DEC.BYTE.OVER", .decLastIdx, 0x1F, 0x0A⟩
  | .decByteTailLast _ => ⟨"DEC.BYTE.TAIL.LAST", .decLastIdx, 0x1F, 0x19⟩
  | .decByteShortLast _ _ => ⟨"DEC.BYTE.SHORT.LAST", .decLastIdx, 0x18, 0x10⟩
  | .decByteShort8Last _ => ⟨"DEC.BYTE.SHORT8.LAST", .decLastIdx, 0x1F, 0x18⟩
  | .decByteOverLast _ => ⟨"DEC.BYTE.OVER.LAST", .decLastIdx, 0x1F, 0x1A⟩
  | .csumClr _ => ⟨"CSUM.CLR", .micro, 0, 0⟩
  | .csumAdd _ _ => ⟨"CSUM.ADD", .micro, 0, 0⟩
  | .csumCmp _ _ => ⟨"CSUM.CMP", .micro, 0, 0⟩

/-- R96: the format of a `Code` and the word its row's mask and match apply to; no word for a block that is not
ten bytes long. -/
def Code.word : Code → Option (Format × Nat)
  | .block [b0, b1, b2, b3, b4, b5, b6, b7, b8, b9] =>
    some (.frame10, (wordOfBytes b0 b1 b2 b3 b4 b5 b6 b7 b8 b9).toNat)
  | .block _ => none
  | .rst => some (.event, 0)
  | .encReq _ => some (.event, 0)
  | .tx idx => some (.encIdx, idx.toNat)
  | .rx sel _ => some (.decLastIdx, sel.toNat)

end Sys2Proof
end

