-- ==== Sys2Proof/Machine/State.lean ====
section
/-! DEFINITION. The state: the thirteen registers of spec/10_state.md R49, and beside them, apart, the environment
(R48: the input events to come and the output events produced are not state of the block; log entries 1, 2). -/

namespace Sys2Proof.Machine

/-- R21 to R26: the encoder's registers. -/
structure EncState where
  /-- R26 `ENC.BUSY` -/
  busy : Bool
  /-- R25 `ENC.IDX` -/
  idx  : Idx
  /-- R21 `ENC.CMD` -/
  cmd  : Byte
  /-- R22 `ENC.P[0..3]` -/
  p    : Payload
  /-- R23 `ENC.DEV` -/
  dev  : DevId
  /-- R24 `ENC.ACC` -/
  acc  : Byte
deriving DecidableEq, Repr

/-- R27 to R33: the decoder's registers. -/
structure DecState where
  /-- R32 `DEC.IDX` -/
  idx  : Idx
  /-- R33 `DEC.FERR` -/
  ferr : Bool
  /-- R27 `DEC.CMD` -/
  cmd  : Byte
  /-- R28 `DEC.P[0..3]` -/
  p    : Payload
  /-- R29 `DEC.DEV` -/
  dev  : DevId
  /-- R30 `DEC.CSRX` -/
  csrx : Byte
  /-- R31 `DEC.ACC` -/
  acc  : Byte
deriving DecidableEq, Repr

/-- R36: a `tx` event. -/
structure TxEvent where
  data : Byte
  last : Bool
deriving DecidableEq, Repr

/-- R39, R200: the three statuses of a result. -/
inductive Status where
  | ok
  | checksumError
  | framingError
deriving DecidableEq, Repr

/-- R39: a `res` event. -/
structure ResEvent where
  status     : Status
  checksumOk : Bool
  cmd        : Byte
  p          : Payload
  dev        : DevId
  csum       : Byte
  /-- `res_calc` (`calc` is a word of Lean) -/
  computed   : Byte
deriving DecidableEq, Repr

/-- R35, R36, R38: an event at a port other than `rst`. `tx` is the sink taking a byte. -/
inductive PortEvent where
  | encReq (r : EncReq)
  | tx
  | rx (b : Byte) (last : Bool)
deriving DecidableEq, Repr

/-- R98, R99: a line of the event script. `rst` lists the events that coincide with the reset (R231); `block` is the
macro DECODE, the bytes of one block in order, the last of them with `rx_last` (log entry 6). -/
inductive Line where
  | rst (coinciding : List PortEvent)
  | port (e : PortEvent)
  | block (bs : List Byte)
deriving DecidableEq, Repr

/-- The environment (R48, R244), which is not part of the block: log entries 1, 2, 11, 14. -/
structure Env where
  /-- R98: the input events to come. -/
  script : List Line
  /-- R72: `tx` is wired to `rx`. Lines of the script at `rx` are still delivered (log entry 21). -/
  wired  : Bool
  /-- R48: the `tx` events produced, oldest first. -/
  txLog  : List TxEvent
  /-- R48: the `res` events produced, oldest first. -/
  resLog : List ResEvent
  /-- R114: the result of the latest `CSUM.CMP`, if one was made. -/
  cmp    : Option Bool
deriving DecidableEq, Repr

/-- R20: the pair of ENC's and DEC's registers, and the environment. -/
structure State where
  enc : EncState
  dec : DecState
  env : Env
deriving DecidableEq, Repr

/-- Why the machine stops. -/
inductive Fault where
  /-- Raised by a `tx` handshake while `ENC.BUSY = 1` and `ENC.IDX` is 10 to 15: R60 says offsets 10 and above do
  not exist. Safe, and no run from reset reaches it (R45(a)); log entry 7. -/
  | encOffset
deriving DecidableEq, Repr

/-- Why the model gives no meaning. -/
inductive Refusal where
  /-- Raised by an arm of `exec` for an instruction that has no meaning yet; no arm raises it now. Safe. -/
  | notModelled (mnemonic : String)
deriving DecidableEq, Repr

/-- The outcome of an operation of this machine. -/
abbrev Result := Host.Outcome State Fault Refusal

/-- R49: the encoder's registers after RESET, which is also the idle encoder (R45(b)). -/
def EncState.reset : EncState :=
  { busy := false, idx := 0#4, cmd := 0#8, p := ⟨0#8, 0#8, 0#8, 0#8⟩, dev := 0#16, acc := 0#8 }

/-- R49: the decoder's registers after RESET, which is also the decoder between blocks (R46(b)). -/
def DecState.reset : DecState :=
  { idx := 0#4, ferr := false, cmd := 0#8, p := ⟨0#8, 0#8, 0#8, 0#8⟩, dev := 0#16, csrx := 0#8, acc := 0#8 }

/-- R49, and the environment before any event (log entry 10). -/
def State.reset : State :=
  { enc := EncState.reset, dec := DecState.reset,
    env := { script := [], wired := false, txLog := [], resLog := [], cmp := none } }

end Sys2Proof.Machine
end

