-- ==== Sys2Proof/Machine/Operands.lean ====
section
/-! DEFINITION. Operand forms: the payload at the request port and at the function level (spec/30_encoding.md R88),
the halves of `device_id` (R86), the frame images `ENC.F` and `DEC.F` (spec/20_memory.md R62, R63). -/

namespace Sys2Proof.Machine

/-- R88: `fit4`, zeros appended after a short sequence, a long one cut after its fourth byte. -/
def fit4 (s : List Byte) : Payload :=
  ⟨s.getD 0 0#8, s.getD 1 0#8, s.getD 2 0#8, s.getD 3 0#8⟩

/-- R131: `fit4` as the request port reads it, `ENC.P[i] <- (i < plen) ? pdata[i] : 0`. -/
def fitPort (plen : Byte) (d : Payload) : Payload :=
  ⟨if 0 < plen.toNat then d.p0 else 0#8, if 1 < plen.toNat then d.p1 else 0#8,
   if 2 < plen.toNat then d.p2 else 0#8, if 3 < plen.toNat then d.p3 else 0#8⟩

/-- The payload as a byte sequence, `payload[i]` at offset `2 + i` (R60). -/
def payloadBytes (p : Payload) : List Byte := [p.p0, p.p1, p.p2, p.p3]

/-- R168: `DEC.DEV[15:8] <- b`. -/
def setDevHigh (d : DevId) (b : Byte) : DevId := devOf b (devLow d)

/-- R169: `DEC.DEV[7:0] <- b`. -/
def setDevLow (d : DevId) (b : Byte) : DevId := devOf (devHigh d) b

/-- R62: `MemRead(ENC.F, k, 1)`. Offsets above 9 do not exist (R60); the image is defined only while
`ENC.BUSY = 1`. -/
def memReadEncF (e : EncState) (k : Idx) : Option Byte :=
  if e.busy then
    match k.toNat with
    | 0 => some Config.head
    | 1 => some e.cmd
    | 2 => some e.p.p0
    | 3 => some e.p.p1
    | 4 => some e.p.p2
    | 5 => some e.p.p3
    | 6 => some (devHigh e.dev)
    | 7 => some (devLow e.dev)
    | 8 => some e.acc
    | 9 => some Config.tail
    | _ => none
  else none

/-- R63: `MemWrite(DEC.F, k, 1, b)`. The markers are compared, not stored, and no offset above 9 exists. -/
def memWriteDecF (d : DecState) (k : Idx) (b : Byte) : DecState :=
  match k.toNat with
  | 1 => { d with cmd := b }
  | 2 => { d with p := { d.p with p0 := b } }
  | 3 => { d with p := { d.p with p1 := b } }
  | 4 => { d with p := { d.p with p2 := b } }
  | 5 => { d with p := { d.p with p3 := b } }
  | 6 => { d with dev := setDevHigh d.dev b }
  | 7 => { d with dev := setDevLow d.dev b }
  | 8 => { d with csrx := b }
  | _ => d

/-- R63 and R31 together: does the byte at offset `k` enter the checksum, `CSUM_FIRST <= k <= CSUM_LAST` (R6)? -/
def summedOffset (k : Idx) : Bool := decide (2 ≤ k.toNat ∧ k.toNat ≤ 7)

end Sys2Proof.Machine
end

