-- ==== Sys2Proof/Machine/Flags.lean ====
section
/-! DEFINITION. Every flag the spec gives (spec/10_state.md R41), and the verdicts and the status they make
(spec/42_decoder.md R161, R173 to R175). -/

namespace Sys2Proof.Machine

/-- R37: the level `enc_busy`, always equal to `ENC.BUSY`. -/
def encBusy (s : State) : Bool := s.enc.busy

/-- R36: `tx_last` of the byte at offset `k`. -/
def txLast (k : Idx) : Bool := decide (k = 9#4)

/-- R161: `headbad'`. -/
def headBad (i : Idx) (b : Byte) : Bool := i == 0#4 && b != Config.head

/-- R161: `tailbad'`. -/
def tailBad (i : Idx) (b : Byte) : Bool := i == 9#4 && b != Config.tail

/-- R161: `DEC.FERR` after a byte that is not the block's last. -/
def ferrNext (i : Idx) (ferr : Bool) (b : Byte) : Bool :=
  ferr || headBad i b || decide (9 ≤ i.toNat)

/-- R178: `DEC.IDX` after a byte that is not the block's last. -/
def decIdxNext (i : Idx) : Idx := if 9 ≤ i.toNat then 10#4 else i + 1#4

/-- R173: `framing_ok'`. -/
def framingOk (i : Idx) (ferr : Bool) (b : Byte) : Bool :=
  i == 9#4 && !ferr && !headBad i b && !tailBad i b

/-- R175: `status'`. -/
def resStatus (fok m : Bool) : Status :=
  if !fok then .framingError else if m then .ok else .checksumError

/-- R200: the code of a status on `res_status`. -/
def statusCode : Status → BitVec 2
  | .ok => 0#2
  | .checksumError => 1#2
  | .framingError => 2#2

/-- R246: nothing is in progress in the block. -/
def quiescent (s : State) : Bool := !s.enc.busy && s.dec.idx == 0#4

end Sys2Proof.Machine
end

