-- ==== Sys2Proof/Machine/Ops.lean ====
section
/-! DEFINITION. The shared operations: the CSUM unit (spec/40_checksum.md R112 to R114), the ports (R36, R39), the
common parts of `ENC.EMIT` (R132) and `DEC.BYTE` (R161), and the reporting of an error condition
(spec/60_exceptions.md R211), which is what this block has in place of taking an exception. -/

namespace Sys2Proof.Machine

/-- Replace the encoder's registers. -/
def State.setEnc (s : State) (e : EncState) : State := { s with enc := e }

/-- Replace the decoder's registers. -/
def State.setDec (s : State) (d : DecState) : State := { s with dec := d }

/-- Replace the events to come. -/
def State.withScript (s : State) (l : List Line) : State := { s with env := { s.env with script := l } }

/-! ### CSUM -/

/-- R113: `(zext_9(ACC) + zext_9(b))[7:0]`. -/
def csumSum (acc b : Byte) : Byte := (acc.zeroExtend 9 + b.zeroExtend 9).extractLsb' 0 8

/-- R114: `match = (ACC == c)`. -/
def csumMatch (acc c : Byte) : Bool := acc == c

/-- The accumulator of a unit (R24, R31). -/
def csumAcc (u : CsumUnit) (s : State) : Byte :=
  match u with
  | .enc => s.enc.acc
  | .dec => s.dec.acc

/-- Write the accumulator of a unit (R24, R31). -/
def setCsumAcc (u : CsumUnit) (v : Byte) (s : State) : State :=
  match u with
  | .enc => s.setEnc { s.enc with acc := v }
  | .dec => s.setDec { s.dec with acc := v }

/-- Keep the comparator's output where it can be seen (log entry 11). -/
def setCmp (m : Bool) (s : State) : State := { s with env := { s.env with cmp := some m } }

/-! ### The output ports -/

/-- R36: one `tx` event. Under the wiring of R72 the byte is the next `rx` event (log entry 14). -/
def sendTx (ev : TxEvent) (s : State) : State :=
  { s with env := { s.env with
      txLog := s.env.txLog ++ [ev]
      script := if s.env.wired then .port (.rx ev.data ev.last) :: s.env.script else s.env.script } }

/-- R39: one `res` event, a pulse that no register of the block keeps. -/
def sendRes (r : ResEvent) (s : State) : State :=
  { s with env := { s.env with resLog := s.env.resLog ++ [r] } }

/-! ### ENC.EMIT, the common part -/

/-- R132: the encoder's registers after the byte `b` of offset `k`. -/
def encAfter (k : Idx) (b : Byte) (e : EncState) : EncState :=
  if k = 9#4 then EncState.reset
  else { e with acc := if summedOffset k then csumSum e.acc b else e.acc, idx := k + 1#4 }

/-- R132: `ENC.EMIT` for whatever `ENC.IDX` holds; none where the offset does not exist. -/
def encEmit (s : State) : Option State :=
  if s.enc.busy then
    match memReadEncF s.enc s.enc.idx with
    | some b => some (sendTx ⟨b, txLast s.enc.idx⟩ (s.setEnc (encAfter s.enc.idx b s.enc)))
    | none => none
  else some s

/-- R132: a sub-case runs where `ENC.BUSY = 1` and `ENC.IDX` is its own; elsewhere its guard is false and nothing
changes (R13; log entry 4). -/
def encAt (k : Idx) (f : State → State) (s : State) : State :=
  if s.enc.busy = true ∧ s.enc.idx = k then f s else s

/-! ### DEC.BYTE, the common part, and the report -/

/-- R176: the result of a block with a framing error: nothing but the status. -/
def framingErrorResult : ResEvent :=
  { status := .framingError, checksumOk := false, cmd := 0#8, p := ⟨0#8, 0#8, 0#8, 0#8⟩,
    dev := 0#16, csum := 0#8, computed := 0#8 }

/-- R173 to R176: the result that the byte with `rx_last` brings. -/
def blockResult (d : DecState) (b : Byte) : ResEvent :=
  let fok := framingOk d.idx d.ferr b
  let m := csumMatch d.acc d.csrx
  if fok then
    { status := resStatus fok m, checksumOk := fok && m, cmd := d.cmd, p := d.p, dev := d.dev,
      csum := d.csrx, computed := d.acc }
  else framingErrorResult

/-- R211, R177: a block is reported, and in the same step every decoder register returns to its reset value.
Nothing is saved and ENC is not affected; there is nothing to return from (R212). The comparator runs in this
step whatever the verdict (R161, R114). -/
def reportBlock (r : ResEvent) (s : State) : State :=
  (setCmp (csumMatch s.dec.acc s.dec.csrx) (sendRes r s)).setDec DecState.reset

/-- R161, part 1: the byte's own action. -/
def decStore (b : Byte) (d : DecState) : DecState :=
  { memWriteDecF d d.idx b with acc := if summedOffset d.idx then csumSum d.acc b else d.acc }

/-- R161: `DEC.BYTE` for whatever `DEC.IDX` holds. -/
def decByte (b : Byte) (last : Bool) (s : State) : State :=
  if last then reportBlock (blockResult s.dec b) s
  else
    s.setDec { decStore b s.dec with
      ferr := ferrNext s.dec.idx s.dec.ferr b, idx := decIdxNext s.dec.idx }

/-- R96: a sub-case of `DEC.BYTE` is selected where `DEC.IDX` is its own (log entry 4). -/
def decAt (k : Idx) (f : State → State) (s : State) : State :=
  if s.dec.idx = k then f s else s

/-- R99: the bytes of one block, `rx_last` on the last of them. -/
def decBlock : List Byte → State → State
  | [], s => s
  | [b], s => decByte b true s
  | b :: b' :: bs, s => decBlock (b' :: bs) (decByte b false s)

end Sys2Proof.Machine
end

