-- ==== Sys2Proof/Machine/Checksum.lean ====
section
/-! DEFINITION. The CSUM micro-operations (spec/40_checksum.md R112 to R114), for the unit their operand names. -/

namespace Sys2Proof.Machine

/-- R112 `CSUM.CLR`: `ACC <- 0x00`. -/
def execCsumClr (u : CsumUnit) (s : State) : Result :=
  .next (setCsumAcc u 0#8 s)

/-- R113 `CSUM.ADD b`: `ACC <- (ACC + b) mod 256`. -/
def execCsumAdd (u : CsumUnit) (b : Byte) (s : State) : Result :=
  .next (setCsumAcc u (csumSum (csumAcc u s) b) s)

/-- R114 `CSUM.CMP c`: one bit, `ACC == c`; `ACC` is not changed. -/
def execCsumCmp (u : CsumUnit) (c : Byte) (s : State) : Result :=
  .next (setCmp (csumMatch (csumAcc u s) c) s)

end Sys2Proof.Machine
end

