-- ==== Sys2Proof/Machine/Decoder.lean ====
section
/-! DEFINITION. The sub-cases of `DEC.BYTE` (spec/42_decoder.md): R162 to R172 without `rx_last`, R173 to R177 with
it. -/

namespace Sys2Proof.Machine

/-- A field byte that does not enter the checksum (R163, R170): `d` is the decoder with the field written. -/
def takePlain (k : Idx) (d : DecState) (s : State) : State :=
  s.setDec { d with idx := k + 1#4 }

/-- A field byte `b` that enters the checksum (R164 to R169): `d` is the decoder with the field written. -/
def takeSummed (k : Idx) (b : Byte) (d : DecState) (s : State) : State :=
  s.setDec { d with acc := csumSum d.acc b, idx := k + 1#4 }

/-- R162 `BYTE.HEAD`: the byte is compared, not stored. -/
def execDecByteHead (b : Byte) (s : State) : Result :=
  .next (decAt 0#4 (takePlain 0#4 { s.dec with ferr := s.dec.ferr || b != Config.head }) s)

/-- R163 `BYTE.CMD`. -/
def execDecByteCmd (b : Byte) (s : State) : Result :=
  .next (decAt 1#4 (takePlain 1#4 { s.dec with cmd := b }) s)

/-- R164 `BYTE.P0`. -/
def execDecByteP0 (b : Byte) (s : State) : Result :=
  .next (decAt 2#4 (takeSummed 2#4 b { s.dec with p := { s.dec.p with p0 := b } }) s)

/-- R165 `BYTE.P1`. -/
def execDecByteP1 (b : Byte) (s : State) : Result :=
  .next (decAt 3#4 (takeSummed 3#4 b { s.dec with p := { s.dec.p with p1 := b } }) s)

/-- R166 `BYTE.P2`. -/
def execDecByteP2 (b : Byte) (s : State) : Result :=
  .next (decAt 4#4 (takeSummed 4#4 b { s.dec with p := { s.dec.p with p2 := b } }) s)

/-- R167 `BYTE.P3`. -/
def execDecByteP3 (b : Byte) (s : State) : Result :=
  .next (decAt 5#4 (takeSummed 5#4 b { s.dec with p := { s.dec.p with p3 := b } }) s)

/-- R168 `BYTE.DEVH`: the low half of `DEC.DEV` is unchanged. -/
def execDecByteDevh (b : Byte) (s : State) : Result :=
  .next (decAt 6#4 (takeSummed 6#4 b { s.dec with dev := setDevHigh s.dec.dev b }) s)

/-- R169 `BYTE.DEVL`: the high half of `DEC.DEV` is unchanged. -/
def execDecByteDevl (b : Byte) (s : State) : Result :=
  .next (decAt 7#4 (takeSummed 7#4 b { s.dec with dev := setDevLow s.dec.dev b }) s)

/-- R170 `BYTE.CSUM`: stored, not summed, not compared yet. -/
def execDecByteCsum (b : Byte) (s : State) : Result :=
  .next (decAt 8#4 (takePlain 8#4 { s.dec with csrx := b }) s)

/-- R171 `BYTE.TAIL` without `rx_last`: the block is longer than ten bytes, whatever the byte is. -/
def execDecByteTailNotlast (_b : Byte) (s : State) : Result :=
  .next (decAt 9#4 (fun t => t.setDec { t.dec with ferr := true, idx := 10#4 }) s)

/-- R172 `BYTE.OVER`: the byte is discarded, `DEC.IDX` stays 10 and `DEC.FERR` stays 1 (log entry 13: R161 sets
it also where no run leaves it 0). -/
def execDecByteOver (_b : Byte) (s : State) : Result :=
  .next (decAt 10#4 (fun t => t.setDec { t.dec with ferr := true }) s)

/-- R161, R173 to R177: the tenth byte, with `rx_last`. -/
def execDecByteTailLast (b : Byte) (s : State) : Result :=
  .next (decAt 9#4 (reportBlock (blockResult s.dec b)) s)

/-- R161, R201: `rx_last` at `DEC.IDX` 0 to 7, a block too short. `i` is `DEC.IDX` (log entry 18). -/
def execDecByteShortLast (i : BitVec 3) (_b : Byte) (s : State) : Result :=
  .next (decAt (0#1 ++ i) (reportBlock framingErrorResult) s)

/-- R161, R201: `rx_last` at `DEC.IDX` 8, a block of nine bytes. -/
def execDecByteShort8Last (_b : Byte) (s : State) : Result :=
  .next (decAt 8#4 (reportBlock framingErrorResult) s)

/-- R161, R201: `rx_last` in the overlong state. -/
def execDecByteOverLast (_b : Byte) (s : State) : Result :=
  .next (decAt 10#4 (reportBlock framingErrorResult) s)

end Sys2Proof.Machine
end

