-- ==== Sys2Proof/Machine/Encoder.lean ====
section
/-! DEFINITION. The encoder's operations (spec/41_encoder.md): `ENC.LOAD` and the ten sub-cases of `ENC.EMIT`. -/

namespace Sys2Proof.Machine

/-- R131: the encoder's registers after a request is loaded. -/
def loadedEnc (r : EncReq) : EncState :=
  { busy := true, idx := 0#4, cmd := r.cmd, p := fitPort r.plen r.pdata, dev := r.dev, acc := 0#8 }

/-- R131 `ENC.LOAD`; while busy the request is not accepted and not remembered (R133). -/
def execEncLoad (r : EncReq) (s : State) : Result :=
  .next (if s.enc.busy then s else s.setEnc (loadedEnc r))

/-- A byte that does not enter the checksum, at offset `k` of 0 to 8. -/
def emitPlain (k : Idx) (b : Byte) (s : State) : State :=
  sendTx ⟨b, false⟩ (s.setEnc { s.enc with idx := k + 1#4 })

/-- A byte that enters the checksum, at offset `k` of 2 to 7. -/
def emitSummed (k : Idx) (b : Byte) (s : State) : State :=
  sendTx ⟨b, false⟩ (s.setEnc { s.enc with acc := csumSum s.enc.acc b, idx := k + 1#4 })

/-- R134 `EMIT.HEAD`. -/
def execEncEmitHead (s : State) : Result :=
  .next (encAt 0#4 (emitPlain 0#4 Config.head) s)

/-- R135 `EMIT.CMD`. -/
def execEncEmitCmd (s : State) : Result :=
  .next (encAt 1#4 (emitPlain 1#4 s.enc.cmd) s)

/-- R136 `EMIT.P0`. -/
def execEncEmitP0 (s : State) : Result :=
  .next (encAt 2#4 (emitSummed 2#4 s.enc.p.p0) s)

/-- R137 `EMIT.P1`. -/
def execEncEmitP1 (s : State) : Result :=
  .next (encAt 3#4 (emitSummed 3#4 s.enc.p.p1) s)

/-- R138 `EMIT.P2`. -/
def execEncEmitP2 (s : State) : Result :=
  .next (encAt 4#4 (emitSummed 4#4 s.enc.p.p2) s)

/-- R139 `EMIT.P3`. -/
def execEncEmitP3 (s : State) : Result :=
  .next (encAt 5#4 (emitSummed 5#4 s.enc.p.p3) s)

/-- R140 `EMIT.DEVH`. -/
def execEncEmitDevh (s : State) : Result :=
  .next (encAt 6#4 (emitSummed 6#4 (devHigh s.enc.dev)) s)

/-- R141 `EMIT.DEVL`. -/
def execEncEmitDevl (s : State) : Result :=
  .next (encAt 7#4 (emitSummed 7#4 (devLow s.enc.dev)) s)

/-- R142 `EMIT.CSUM`: the accumulator is the checksum byte, and is not added to itself. -/
def execEncEmitCsum (s : State) : Result :=
  .next (encAt 8#4 (emitPlain 8#4 s.enc.acc) s)

/-- R143 `EMIT.TAIL`: every encoder register returns to its reset value. -/
def execEncEmitTail (s : State) : Result :=
  .next (encAt 9#4 (fun t => sendTx ⟨Config.tail, true⟩ (t.setEnc EncState.reset)) s)

end Sys2Proof.Machine
end

