-- ==== Sys2Proof/Machine/Frame.lean ====
section
/-! DEFINITION. The frame kinds (spec/30_encoding.md R84) as operations: the ten bytes of the frame are one block
for the decoder, the macro DECODE of R99 (log entry 5). The codec treats the kinds alike (R92). -/

namespace Sys2Proof.Machine

/-- The ten bytes of a frame with the given fields, received as one block. -/
def receiveFrame (cmd : Byte) (p : Payload) (dev : DevId) (csum : Byte) (s : State) : State :=
  decBlock (frameBytes cmd p dev csum) s

/-- R84 `FRAME.CMD`, `command_id = 0xB4`. -/
def execFrameCmd (p : Payload) (dev : DevId) (csum : Byte) (s : State) : Result :=
  .next (receiveFrame Config.cmdOut p dev csum s)

/-- R84 `FRAME.SAMPLE`, `command_id = 0xC0`. -/
def execFrameSample (p : Payload) (dev : DevId) (csum : Byte) (s : State) : Result :=
  .next (receiveFrame Config.cmdSample p dev csum s)

/-- R84 `FRAME.ACK`, `command_id = 0xC5`. -/
def execFrameAck (p : Payload) (dev : DevId) (csum : Byte) (s : State) : Result :=
  .next (receiveFrame Config.cmdAck p dev csum s)

/-- R84 `FRAME.ANY`, any other `command_id`. -/
def execFrameAny (cmd : Byte) (p : Payload) (dev : DevId) (csum : Byte) (s : State) : Result :=
  .next (receiveFrame cmd p dev csum s)

end Sys2Proof.Machine
end

