-- ==== Sys2Proof/Machine/System.lean ====
section
/-! DEFINITION. The one system-level operation, `RESET` (spec/70_reset_and_hazards.md R230). -/

namespace Sys2Proof.Machine

/-- R230 `RESET`: every register of both agents, in every state; no output event. -/
def execReset (s : State) : Result :=
  .next ((s.setEnc EncState.reset).setDec DecState.reset)

end Sys2Proof.Machine
end

