-- ==== Sys2Proof/Machine/Dispatch.lean ====
section
/-! DEFINITION. The instruction of each row, and its meaning: one arm per constructor of `Instr`. -/

namespace Sys2Proof.Machine

def exec (i : Instr) (s : State) : Host.Outcome State Fault Refusal :=
  match i with
  -- spec/30_encoding.md R84
  | .frameCmd p dev csum => Sys2Proof.Machine.execFrameCmd p dev csum s
  | .frameSample p dev csum => Sys2Proof.Machine.execFrameSample p dev csum s
  | .frameAck p dev csum => Sys2Proof.Machine.execFrameAck p dev csum s
  | .frameAny cmd p dev csum => Sys2Proof.Machine.execFrameAny cmd p dev csum s
  -- spec/70_reset_and_hazards.md R230, spec/41_encoder.md R131
  | .reset => Sys2Proof.Machine.execReset s
  | .encLoad r => Sys2Proof.Machine.execEncLoad r s
  -- spec/41_encoder.md R134 to R143
  | .encEmitHead => Sys2Proof.Machine.execEncEmitHead s
  | .encEmitCmd => Sys2Proof.Machine.execEncEmitCmd s
  | .encEmitP0 => Sys2Proof.Machine.execEncEmitP0 s
  | .encEmitP1 => Sys2Proof.Machine.execEncEmitP1 s
  | .encEmitP2 => Sys2Proof.Machine.execEncEmitP2 s
  | .encEmitP3 => Sys2Proof.Machine.execEncEmitP3 s
  | .encEmitDevh => Sys2Proof.Machine.execEncEmitDevh s
  | .encEmitDevl => Sys2Proof.Machine.execEncEmitDevl s
  | .encEmitCsum => Sys2Proof.Machine.execEncEmitCsum s
  | .encEmitTail => Sys2Proof.Machine.execEncEmitTail s
  -- spec/42_decoder.md R162 to R172
  | .decByteHead b => Sys2Proof.Machine.execDecByteHead b s
  | .decByteCmd b => Sys2Proof.Machine.execDecByteCmd b s
  | .decByteP0 b => Sys2Proof.Machine.execDecByteP0 b s
  | .decByteP1 b => Sys2Proof.Machine.execDecByteP1 b s
  | .decByteP2 b => Sys2Proof.Machine.execDecByteP2 b s
  | .decByteP3 b => Sys2Proof.Machine.execDecByteP3 b s
  | .decByteDevh b => Sys2Proof.Machine.execDecByteDevh b s
  | .decByteDevl b => Sys2Proof.Machine.execDecByteDevl b s
  | .decByteCsum b => Sys2Proof.Machine.execDecByteCsum b s
  | .decByteTailNotlast b => Sys2Proof.Machine.execDecByteTailNotlast b s
  | .decByteOver b => Sys2Proof.Machine.execDecByteOver b s
  -- spec/42_decoder.md R173 to R177
  | .decByteTailLast b => Sys2Proof.Machine.execDecByteTailLast b s
  | .decByteShortLast k b => Sys2Proof.Machine.execDecByteShortLast k b s
  | .decByteShort8Last b => Sys2Proof.Machine.execDecByteShort8Last b s
  | .decByteOverLast b => Sys2Proof.Machine.execDecByteOverLast b s
  -- spec/40_checksum.md R112 to R114
  | .csumClr u => Sys2Proof.Machine.execCsumClr u s
  | .csumAdd u b => Sys2Proof.Machine.execCsumAdd u b s
  | .csumCmp u c => Sys2Proof.Machine.execCsumCmp u c s

end Sys2Proof.Machine
end

