-- ==== Sys2Proof/Machine/Fetch.lean ====
section
/-! DEFINITION. How a line of the event script selects an operation (spec/30_encoding.md R96), what happens where no
row of the table matches, and how a table word is placed where the next step finds it (log entry 17). -/

namespace Sys2Proof.Machine

/-- R96: what a line selects, from the port and the state; none where the guard is false and the handshake does not
complete (R13, R133), and for the empty block, which cannot be presented (R182). `rst` wins over the events that
coincide with it (R231). DESIGN CHOICE: an `rx` or `block` line of the script is delivered to DEC also while `tx` is wired
to `rx`, where R72 gives no such event (log entry 21). -/
def select (l : Line) (s : State) : Option Code :=
  match l with
  | .rst _ => some .rst
  | .port (.encReq r) => if s.enc.busy then none else some (.encReq r)
  | .port .tx => if s.enc.busy then some (.tx s.enc.idx) else none
  | .port (.rx b last) => some (.rx (BitVec.ofBool last ++ s.dec.idx) b)
  | .block [] => none
  | .block (b :: bs) => some (.block (b :: bs))

/-- What a `Code` does that no row of the table matches: a block that is no frame is received byte by byte (R91,
R99); a byte at `DEC.IDX` above 10 follows the common part R161, which has no guard (log entry 8); a `tx`
handshake at an offset that does not exist stops (R60; log entry 7). -/
def unlisted (c : Code) (s : State) : Result :=
  match c with
  | .block bs => .next (decBlock bs s)
  | .rx sel b => .next (decByte b (sel.getLsbD 4) s)
  | .tx _ =>
    match encEmit s with
    | some t => .next t
    | none => .fault .encOffset
  | .rst => .next s
  | .encReq _ => .next s

/-- Put `c` where the very next step selects it: the event at the head of the script, and the registers that are its
selector. -/
def placeCode (c : Code) (s : State) : State :=
  match c with
  | .block bs => s.withScript (.block bs :: s.env.script)
  | .rst => s.withScript (.rst [] :: s.env.script)
  | .encReq r =>
    (s.setEnc { s.enc with busy := false }).withScript (.port (.encReq r) :: s.env.script)
  | .tx idx =>
    (s.setEnc { s.enc with busy := true, idx := idx }).withScript (.port .tx :: s.env.script)
  | .rx sel b =>
    (s.setDec { s.dec with idx := sel.extractLsb' 0 4 }).withScript
      (.port (.rx b (sel.getLsbD 4)) :: s.env.script)

end Sys2Proof.Machine
end

