-- ==== Sys2Proof/Machine/Step.lean ====
section
/-! DEFINITION. One step (spec/00_scope.md R13): the next line of the event script is taken and the operation it
selects is run. -/

namespace Sys2Proof.Machine

/-- Run what a line selects. A line whose guard is false changes nothing (R98; log entry 3). -/
def runLine (l : Line) (s : State) : Result :=
  match select l s with
  | none => .next s
  | some c =>
    match decode c with
    | .ok i => exec i s
    | .error _ => unlisted c s

/-- One step. With no event to come the block waits as it is (R239, R246; log entry 15). -/
def step (s : State) : Host.Outcome State Fault Refusal :=
  match s.env.script with
  | [] => .next s
  | l :: rest => runLine l (s.withScript rest)

/-- The word of spec/opcode_table.json placed where `step` takes its next operation (log entry 17). -/
def State.withFetchWord (s : State) (nbits w : Nat) : State :=
  match tableCode nbits w with
  | none => s
  | some c => placeCode c s

end Sys2Proof.Machine
end

