-- ==== Sys2Proof/Machine/Function.lean ====
section
/-! DEFINITION. The function level (spec/00_scope.md R14): `checksum` (R110), `encode` (R130), `decode` (R160, R184)
over byte sequences, and the `res` event that stands for a result of `decode` (R182). -/

namespace Sys2Proof.Machine

/-- R110, in the form R111(a): the left fold of addition modulo 256. -/
def checksum (s : List Byte) : Byte := s.foldl csumSum 0#8

/-- R110: the six bytes the checksum of a frame covers. -/
def summedBytes (p : Payload) (dev : DevId) : List Byte :=
  [p.p0, p.p1, p.p2, p.p3, devHigh dev, devLow dev]

/-- R130: `encode(command_id, payload, device_id)`. -/
def frameEncode (cmd : Byte) (payload : List Byte) (dev : DevId) : List Byte :=
  frameBytes cmd (fit4 payload) dev (checksum (summedBytes (fit4 payload) dev))

/-- R184: the record a decoded frame is. -/
structure Frame where
  cmd        : Byte
  p          : Payload
  dev        : DevId
  csum       : Byte
  checksumOk : Bool
deriving DecidableEq, Repr

/-- R160: `decode(bs)`. -/
def frameDecode : List Byte → Status × Option Frame
  | [b0, b1, b2, b3, b4, b5, b6, b7, b8, b9] =>
    if b0 ≠ Config.head ∨ b9 ≠ Config.tail then (.framingError, none)
    else
      let ok := checksum [b2, b3, b4, b5, b6, b7] == b8
      (if ok then .ok else .checksumError,
        some { cmd := b1, p := ⟨b2, b3, b4, b5⟩, dev := devOf b6 b7, csum := b8, checksumOk := ok })
  | _ => (.framingError, none)

/-- R83: a well-formed frame. -/
def wellFormedFrame (bs : List Byte) : Bool := (frameDecode bs).1 == .ok

/-- R182: the `res` event for a block, from `decode` of its bytes. -/
def decodeEvent (bs : List Byte) : ResEvent :=
  match frameDecode bs with
  | (st, some f) =>
    { status := st, checksumOk := f.checksumOk, cmd := f.cmd, p := f.p, dev := f.dev, csum := f.csum,
      computed := checksum (summedBytes f.p f.dev) }
  | (st, none) => { framingErrorResult with status := st }

end Sys2Proof.Machine
end

