-- ==== Sys2Proof/Machine/Script.lean ====
section
/-! DEFINITION. The pseudo-operations of the event script (spec/30_encoding.md R99) as the lines they expand to, and
the request a caller of `encode` presents (spec/10_state.md R35). -/

namespace Sys2Proof.Machine

/-- R99 `ENCODE`: the request, then ten `ENC.EMIT` lines. With `tx` wired to `rx` (R72) the same lines are
`LOOPBACK`, each byte coming back as an `rx` event (log entry 14). -/
def encodeLines (r : EncReq) : List Line := .port (.encReq r) :: List.replicate 10 (.port .tx)

/-- R99 `DECODE`: one `DEC.BYTE` line a byte, the last of them with `last`. -/
def decodeLines : List Byte → List Line
  | [] => []
  | [b] => [.port (.rx b true)]
  | b :: b' :: bs => .port (.rx b false) :: decodeLines (b' :: bs)

/-- R35: the request for a payload of any length: its first four bytes, and its length up to 255. -/
def requestOf (cmd : Byte) (payload : List Byte) (dev : DevId) : EncReq :=
  { cmd := cmd, plen := BitVec.ofNat 8 (min payload.length 255), pdata := fit4 payload, dev := dev }

/-- R147: the payload a request stands for, `[pdata[0], ..., pdata[min(plen, 4) - 1]]`. -/
def requestPayload (r : EncReq) : List Byte := (payloadBytes r.pdata).take (min r.plen.toNat 4)

/-- R36: the `tx` events of a frame: its bytes in offset order, the last one marked. -/
def frameEvents (bs : List Byte) : List TxEvent :=
  bs.mapIdx fun k b => ⟨b, k == 9⟩

end Sys2Proof.Machine
end

