-- ==== Sys2Proof/Safety.lean ====
section
/-! DEFINITION. Runs, finite and endless, the fairness of `tx` (spec/70_reset_and_hazards.md R245, R246), and the
invariants of spec/10_state.md R45 and R46 and of the traces (R36, R39, R69). -/

namespace Sys2Proof.Machine

/-- `n` steps, stopping at the first fault or refusal. -/
def steps : Nat → State → Result
  | 0, s => .next s
  | n + 1, s =>
    match step s with
    | .next t => steps n t
    | .fault r => .fault r
    | .refused r => .refused r

/-- The bytes of the frame in progress at offsets 0 to 8, from the registers (R62). -/
def encImage (e : EncState) : List Byte :=
  [Config.head, e.cmd, e.p.p0, e.p.p1, e.p.p2, e.p.p3, devHigh e.dev, devLow e.dev,
   checksum (summedBytes e.p e.dev)]

/-- R45: the encoder's registers, in every state that a run reaches. -/
structure EncInv (e : EncState) : Prop where
  /-- R45(a) -/
  idx_le : e.idx.toNat ≤ 9
  /-- R45(b) -/
  idle   : e.busy = false → e = EncState.reset
  /-- R45(c): the bytes of offsets 2 to `min(k, 8) - 1` are summed -/
  acc    : e.busy = true → e.acc = checksum ((summedBytes e.p e.dev).take (min e.idx.toNat 8 - 2))

/-- R46, with the bytes `bs` of the current block that were received so far. -/
structure DecHolds (bs : List Byte) (d : DecState) : Prop where
  /-- R32, R46(a) -/
  idx  : d.idx.toNat = min bs.length 10
  /-- R46(c), (d) -/
  ferr : d.ferr = (bs.headD Config.head != Config.head || decide (10 ≤ bs.length))
  /-- R27 to R30, R47: a field not received yet is 0 -/
  cmd  : d.cmd = bs.getD 1 0#8
  p    : d.p = ⟨bs.getD 2 0#8, bs.getD 3 0#8, bs.getD 4 0#8, bs.getD 5 0#8⟩
  dev  : d.dev = devOf (bs.getD 6 0#8) (bs.getD 7 0#8)
  csrx : d.csrx = bs.getD 8 0#8
  /-- R46(c): the bytes received at offsets 2 to `min(k, 8) - 1` are summed -/
  acc  : d.acc = checksum ((bs.take 8).drop 2)

/-- R46: the decoder's registers, in every state that a run reaches. -/
def DecInv (d : DecState) : Prop := ∃ bs, DecHolds bs d

/-- R45 and R46 together. -/
def RegInv (s : State) : Prop := EncInv s.enc ∧ DecInv s.dec

/-- R69(b): while a frame is in progress, the latest `tx` events are its bytes of offsets 0 to `ENC.IDX - 1`, none
of them marked last. -/
def TxInv (s : State) : Prop :=
  s.enc.busy = true →
    ∃ before, s.env.txLog = before ++ ((encImage s.enc).take s.enc.idx.toNat).map (fun b => ⟨b, false⟩)

/-- R175, R176: what every `res` event satisfies. -/
def resEventOk (r : ResEvent) : Bool :=
  match r.status with
  | .ok => r.checksumOk && r.computed == checksum (summedBytes r.p r.dev) && r.csum == r.computed
  | .checksumError => !r.checksumOk && r.computed == checksum (summedBytes r.p r.dev) && r.csum != r.computed
  | .framingError => r == framingErrorResult

/-- Every `res` event produced so far satisfies R175 and R176. -/
def ResInv (s : State) : Prop := ∀ r ∈ s.env.resLog, resEventOk r = true

/-- The environment after one `tx` event (R36); wired, the byte is the next `rx` event (R72). -/
def afterTx (b : Byte) (last : Bool) (v : Env) : Env :=
  { v with
    txLog := v.txLog ++ [⟨b, last⟩]
    script := if v.wired = true then .port (.rx b last) :: v.script else v.script }

/-- The environment after one `res` event (R39) and the comparison made with it (R114). -/
def afterRes (r : ResEvent) (m : Bool) (v : Env) : Env :=
  { v with resLog := v.resLog ++ [r], cmp := some m }

/-- The bytes of the block that is still open after the lines `ls`, `bs` of it being there before: those since the
last `rx_last` or `RESET` (R177, R236). -/
def openBlock : List Byte → List Line → List Byte
  | bs, [] => bs
  | bs, .port (.rx b false) :: ls => openBlock (bs ++ [b]) ls
  | _, .port (.rx _ true) :: ls => openBlock [] ls
  | _, .block (_ :: _) :: ls => openBlock [] ls
  | bs, .block [] :: ls => openBlock bs ls
  | _, .rst _ :: ls => openBlock [] ls
  | bs, .port (.encReq _) :: ls => openBlock bs ls
  | bs, .port .tx :: ls => openBlock bs ls

/-- A line that resets the block. -/
def rstLine : Line → Bool
  | .rst _ => true
  | .port _ | .block _ => false

/-- The state before a run: after reset, with a script and a wiring from outside. -/
def startState (script : List Line) (wired : Bool) : State :=
  { State.reset with env := { State.reset.env with script := script, wired := wired } }

/-- The lines that the next `n` steps take, in order, up to the first stop. -/
def takenLines : Nat → State → List Line
  | 0, _ => []
  | n + 1, s =>
    match step s with
    | .next t => s.env.script.head?.toList ++ takenLines n t
    | .fault _ | .refused _ => []

/-! ### Endless runs (R246; log entry 20)

`input n` is what the environment offers before step `n`, if anything: one line, which joins the end of the events to
come. It is the environment's choice and quantified over, so it is no part of `State` (R48). -/

/-- R244: the environment offers a line, or nothing. -/
def offer (e : Option Line) (s : State) : State := s.withScript (s.env.script ++ e.toList)

/-- R246: `r` is the endless run under `input`, from the state that RESET leaves. -/
structure Run (input : Nat → Option Line) (wired : Bool) (r : Nat → State) : Prop where
  start : r 0 = startState [] wired
  next  : ∀ n, step (offer (input n) (r n)) = .next (r (n + 1))

/-- The states of the endless run under `input`, staying where a step stops. -/
def runOf (input : Nat → Option Line) (wired : Bool) : Nat → State
  | 0 => startState [] wired
  | n + 1 =>
    match step (offer (input n) (runOf input wired n)) with
    | .next t => t
    | .fault _ | .refused _ => runOf input wired n

/-- The line that step `n` of a run takes, if there is one. -/
def takenAt (input : Nat → Option Line) (r : Nat → State) (n : Nat) : Option Line :=
  (offer (input n) (r n)).env.script.head?

/-- Step `n` of a run is an `ENC.EMIT`: the `tx` handshake is enabled (R132) and the sink takes a byte. -/
def emitsAt (input : Nat → Option Line) (r : Nat → State) (n : Nat) : Bool :=
  encBusy (r n) && takenAt input r n == some (.port .tx)

/-- R245(a): weak fairness of the `tx` handshake. If it is enabled in every state from step `n` on, then it completes
at some step from `n` on. -/
def TxWeaklyFair (input : Nat → Option Line) (r : Nat → State) : Prop :=
  ∀ n, (∀ m, n ≤ m → encBusy (r m) = true) → ∃ m, n ≤ m ∧ emitsAt input r m = true

/-- How many of the steps `n`, ..., `n + k - 1` of a run are an `ENC.EMIT`. -/
def emitCount (input : Nat → Option Line) (r : Nat → State) (n : Nat) : Nat → Nat
  | 0 => 0
  | k + 1 => emitCount input r n k + if emitsAt input r (n + k) then 1 else 0

/-- A line that concerns only ENC. -/
def encLine : Line → Bool
  | .port (.encReq _) | .port .tx => true
  | .port (.rx _ _) | .block _ | .rst _ => false

/-- A line that concerns only DEC. -/
def decLine : Line → Bool
  | .port (.rx _ _) | .block _ => true
  | .port (.encReq _) | .port .tx | .rst _ => false

/-- An operation of ENC alone (R20). -/
def encOp : Instr → Bool
  | .encLoad _ | .encEmitHead | .encEmitCmd | .encEmitP0 | .encEmitP1 | .encEmitP2 | .encEmitP3
  | .encEmitDevh | .encEmitDevl | .encEmitCsum | .encEmitTail => true
  | .frameCmd _ _ _ | .frameSample _ _ _ | .frameAck _ _ _ | .frameAny _ _ _ _ | .reset
  | .decByteHead _ | .decByteCmd _ | .decByteP0 _ | .decByteP1 _ | .decByteP2 _ | .decByteP3 _
  | .decByteDevh _ | .decByteDevl _ | .decByteCsum _ | .decByteTailNotlast _ | .decByteOver _
  | .decByteTailLast _ | .decByteShortLast _ _ | .decByteShort8Last _ | .decByteOverLast _
  | .csumClr _ | .csumAdd _ _ | .csumCmp _ _ => false

/-- An operation of DEC alone (R20). -/
def decOp : Instr → Bool
  | .frameCmd _ _ _ | .frameSample _ _ _ | .frameAck _ _ _ | .frameAny _ _ _ _
  | .decByteHead _ | .decByteCmd _ | .decByteP0 _ | .decByteP1 _ | .decByteP2 _ | .decByteP3 _
  | .decByteDevh _ | .decByteDevl _ | .decByteCsum _ | .decByteTailNotlast _ | .decByteOver _
  | .decByteTailLast _ | .decByteShortLast _ _ | .decByteShort8Last _ | .decByteOverLast _ => true
  | .encLoad _ | .encEmitHead | .encEmitCmd | .encEmitP0 | .encEmitP1 | .encEmitP2 | .encEmitP3
  | .encEmitDevh | .encEmitDevl | .encEmitCsum | .encEmitTail | .reset
  | .csumClr _ | .csumAdd _ _ | .csumCmp _ _ => false

/-- The `res` events a line brings, counted: one for each block it ends (R179). -/
def lineResults : Line → Nat
  | .port (.rx _ true) => 1
  | .block (_ :: _) => 1
  | .port (.rx _ false) | .block [] | .port (.encReq _) | .port .tx | .rst _ => 0

end Sys2Proof.Machine
end

