-- ==== Sys2Proof/Certificates/Slice0/Obligations.lean ====
section
/-! DEFINITION. The statements for the provers, from the numbered rules of spec/. Where one rests on a choice of the
model and not on the spec's words, its docstring names the log entry. -/

open Sys2Proof Sys2Proof.Machine

/-! ### RESET -/

/-- R230, R49: RESET writes the table's value to each of the thirteen registers, in every state, produces no output
event, and changes nothing in the reset state; `State.reset` holds the same values. -/
def Obligations.ResetWritesEveryRegister : Prop :=
  (∀ s : State, exec .reset s = .next
    { enc := { busy := false, idx := 0#4, cmd := 0#8, p := ⟨0#8, 0#8, 0#8, 0#8⟩, dev := 0#16, acc := 0#8 },
      dec := { idx := 0#4, ferr := false, cmd := 0#8, p := ⟨0#8, 0#8, 0#8, 0#8⟩, dev := 0#16, csrx := 0#8,
               acc := 0#8 },
      env := s.env }) ∧
  exec .reset State.reset = .next State.reset ∧
  (∀ s t : State, exec .reset s = .next t → exec .reset t = .next t ∧ encBusy t = false)

/-- R231: an event that coincides with `rst` has no effect, whichever it is: the step is the RESET alone. -/
def Obligations.RstWinsOverCoincidingEvents : Prop :=
  ∀ (s : State) (es : List PortEvent) (rest : List Line), s.env.script = .rst es :: rest →
    step s = exec .reset (s.withScript rest)

/-! ### CSUM -/

/-- R112: CSUM.CLR clears the accumulator of its unit and changes nothing else. -/
def Obligations.CsumClrZeroesTheAccumulator : Prop :=
  ∀ s : State,
    exec (.csumClr .enc) s = .next { s with enc := { s.enc with acc := 0#8 } } ∧
    exec (.csumClr .dec) s = .next { s with dec := { s.dec with acc := 0#8 } }

/-- R113: CSUM.ADD replaces the accumulator of its unit by the sum modulo 256, the carry recorded nowhere, and
changes nothing else. -/
def Obligations.CsumAddIsAdditionModulo256 : Prop :=
  ∀ (s : State) (b : Byte),
    (∃ v : Byte, v.toNat = (s.enc.acc.toNat + b.toNat) % 256 ∧
      exec (.csumAdd .enc b) s = .next { s with enc := { s.enc with acc := v } }) ∧
    (∃ v : Byte, v.toNat = (s.dec.acc.toNat + b.toNat) % 256 ∧
      exec (.csumAdd .dec b) s = .next { s with dec := { s.dec with acc := v } })

/-- R114: CSUM.CMP gives one bit, whether the accumulator of its unit and the operand are equal in all eight bits,
and changes no register. That the bit is kept in `env.cmp` is the model's (log entry 11). -/
def Obligations.CsumCmpComparesTheAccumulator : Prop :=
  ∀ (s : State) (c : Byte),
    exec (.csumCmp .enc c) s = .next { s with env := { s.env with cmp := some (decide (s.enc.acc = c)) } } ∧
    exec (.csumCmp .dec c) s = .next { s with env := { s.env with cmp := some (decide (s.dec.acc = c)) } }

/-! ### ENC -/

/-- R131: an idle encoder takes every request: the payload bytes below `plen`, zeros for the others, the
accumulator cleared, the index 0, busy; nothing else changes. -/
def Obligations.EncLoadTakesTheRequest : Prop :=
  ∀ (s : State) (r : EncReq), s.enc.busy = false →
    exec (.encLoad r) s = .next { s with enc := {
      busy := true, idx := 0#4, cmd := r.cmd,
      p := ⟨if 0 < r.plen.toNat then r.pdata.p0 else 0#8, if 1 < r.plen.toNat then r.pdata.p1 else 0#8,
            if 2 < r.plen.toNat then r.pdata.p2 else 0#8, if 3 < r.plen.toNat then r.pdata.p3 else 0#8⟩,
      dev := r.dev, acc := 0#8 } }

/-- R94, R35: a request is the same to ENC as another with the same `cmd`, `dev`, `min(plen, 4)` and the same payload
bytes below `plen`. -/
def Obligations.UnusedRequestFieldsAreIgnored : Prop :=
  ∀ (s : State) (r q : EncReq), r.cmd = q.cmd → r.dev = q.dev →
    min r.plen.toNat 4 = min q.plen.toNat 4 →
    (∀ i, i < min r.plen.toNat 4 → (payloadBytes r.pdata)[i]? = (payloadBytes q.pdata)[i]?) →
    exec (.encLoad r) s = exec (.encLoad q) s

/-- R133: a request presented while the encoder is busy changes no state and is not remembered; the line is used up
(log entry 3), so the requester must present it again. -/
def Obligations.RequestWhileBusyIsNotAccepted : Prop :=
  ∀ (s : State) (r : EncReq), s.enc.busy = true →
    exec (.encLoad r) s = .next s ∧
    ∀ rest, s.env.script = .port (.encReq r) :: rest → step s = .next (s.withScript rest)

/-- R134, R135: the first two bytes are the start marker and `ENC.CMD`; of the registers only the index changes, and
while the invariant R45 holds the accumulator is 0 before and after EMIT.HEAD. That a wired `tx` also puts the byte at
the head of the script (in `afterTx`) is the model's choice (log entry 14). -/
def Obligations.EmitHeadAndCommand : Prop :=
  ∀ s : State, s.enc.busy = true →
    (s.enc.idx = 0#4 → exec .encEmitHead s = .next
      { s with enc := { s.enc with idx := 1#4 }, env := afterTx 0xAA#8 false s.env } ∧
      (EncInv s.enc → s.enc.acc = 0#8)) ∧
    (s.enc.idx = 1#4 → exec .encEmitCmd s = .next
      { s with enc := { s.enc with idx := 2#4 }, env := afterTx s.enc.cmd false s.env })

/-- R136 to R141: the bytes of offsets 2 to 7 are the payload bytes in order, then `device_id` high byte first; each
is added to the accumulator (addition of bytes, so modulo 256) and of the registers nothing else changes but the index.
That a wired `tx` also puts the byte at the head of the script (in `afterTx`) is the model's choice (log entry 14). -/
def Obligations.EmitSummedBytes : Prop :=
  ∀ s : State, s.enc.busy = true →
    (s.enc.idx = 2#4 → exec .encEmitP0 s = .next
      { s with enc := { s.enc with acc := s.enc.acc + s.enc.p.p0, idx := 3#4 },
               env := afterTx s.enc.p.p0 false s.env }) ∧
    (s.enc.idx = 3#4 → exec .encEmitP1 s = .next
      { s with enc := { s.enc with acc := s.enc.acc + s.enc.p.p1, idx := 4#4 },
               env := afterTx s.enc.p.p1 false s.env }) ∧
    (s.enc.idx = 4#4 → exec .encEmitP2 s = .next
      { s with enc := { s.enc with acc := s.enc.acc + s.enc.p.p2, idx := 5#4 },
               env := afterTx s.enc.p.p2 false s.env }) ∧
    (s.enc.idx = 5#4 → exec .encEmitP3 s = .next
      { s with enc := { s.enc with acc := s.enc.acc + s.enc.p.p3, idx := 6#4 },
               env := afterTx s.enc.p.p3 false s.env }) ∧
    (s.enc.idx = 6#4 → exec .encEmitDevh s = .next
      { s with enc := { s.enc with acc := s.enc.acc + s.enc.dev.extractLsb' 8 8, idx := 7#4 },
               env := afterTx (s.enc.dev.extractLsb' 8 8) false s.env }) ∧
    (s.enc.idx = 7#4 → exec .encEmitDevl s = .next
      { s with enc := { s.enc with acc := s.enc.acc + s.enc.dev.extractLsb' 0 8, idx := 8#4 },
               env := afterTx (s.enc.dev.extractLsb' 0 8) false s.env })

/-- R142: the byte of offset 8 is the accumulator, which is not added to itself; where the invariant R45 holds it is
the checksum of the six bytes of offsets 2 to 7. That a wired `tx` also puts the byte at the head of the script (in
`afterTx`) is the model's choice (log entry 14). -/
def Obligations.EmitChecksumByte : Prop :=
  ∀ s : State, s.enc.busy = true → s.enc.idx = 8#4 →
    exec .encEmitCsum s = .next
      { s with enc := { s.enc with idx := 9#4 }, env := afterTx s.enc.acc false s.env } ∧
    (EncInv s.enc → s.enc.acc = s.enc.p.p0 + s.enc.p.p1 + s.enc.p.p2 + s.enc.p.p3 +
      s.enc.dev.extractLsb' 8 8 + s.enc.dev.extractLsb' 0 8)

/-- R143: the end marker goes out with `tx_last = 1`, every encoder register returns to its reset value, the next
request is accepted by the very next step, and no other operation gives a `tx` event with `tx_last = 1`. That a wired
`tx` also puts the byte at the head of the script (in `afterTx`) is the model's choice (log entry 14). -/
def Obligations.EmitTailClearsTheEncoder : Prop :=
  (∀ s : State, s.enc.busy = true → s.enc.idx = 9#4 →
    ∃ t : State, exec .encEmitTail s = .next t ∧
      t = { s with
        enc := { busy := false, idx := 0#4, cmd := 0#8, p := ⟨0#8, 0#8, 0#8, 0#8⟩, dev := 0#16, acc := 0#8 },
        env := afterTx 0xAB#8 true s.env } ∧
      ∀ r : EncReq, ∃ u : State, exec (.encLoad r) t = .next u ∧ encBusy u = true) ∧
  (∀ (i : Instr) (s t : State) (b : Byte), exec i s = .next t → t.env.txLog = s.env.txLog ++ [⟨b, true⟩] →
    i = .encEmitTail ∧ b = 0xAB#8 ∧ s.enc.idx = 9#4)

/-- R132: `ENC.EMIT` in one formula over `k = ENC.IDX`, as a step on a `tx` event; with `ENC.BUSY = 0` there is no
byte to take, and the line is used up all the same (log entry 3, DEDUCED). That a wired `tx` also puts the byte at the
head of the script (in `afterTx`) is the model's choice (log entry 14). -/
def Obligations.EmitStepIsTheCommonPart : Prop :=
  ∀ (s : State) (rest : List Line), s.env.script = .port .tx :: rest →
    (s.enc.busy = false → step s = .next (s.withScript rest)) ∧
    (s.enc.busy = true → s.enc.idx.toNat ≤ 9 →
      ∃ b, memReadEncF s.enc s.enc.idx = some b ∧
        step s = .next
          { enc :=
              if s.enc.idx = 9#4 then
                { busy := false, idx := 0#4, cmd := 0#8, p := ⟨0#8, 0#8, 0#8, 0#8⟩, dev := 0#16, acc := 0#8 }
              else
                { s.enc with
                  acc := if 2 ≤ s.enc.idx.toNat ∧ s.enc.idx.toNat ≤ 7 then s.enc.acc + b else s.enc.acc
                  idx := s.enc.idx + 1#4 }
            dec := s.dec
            env := afterTx b (decide (s.enc.idx = 9#4)) { s.env with script := rest } })

/-- R62: what the encoder's frame image holds at each offset while a frame is in progress, and that no offset above 9
exists (R60). -/
def Obligations.EncoderImageByOffset : Prop :=
  ∀ e : EncState, e.busy = true →
    memReadEncF e 0#4 = some 0xAA#8 ∧ memReadEncF e 1#4 = some e.cmd ∧
    memReadEncF e 2#4 = some e.p.p0 ∧ memReadEncF e 3#4 = some e.p.p1 ∧
    memReadEncF e 4#4 = some e.p.p2 ∧ memReadEncF e 5#4 = some e.p.p3 ∧
    memReadEncF e 6#4 = some (e.dev.extractLsb' 8 8) ∧ memReadEncF e 7#4 = some (e.dev.extractLsb' 0 8) ∧
    memReadEncF e 8#4 = some e.acc ∧ memReadEncF e 9#4 = some 0xAB#8 ∧
    ∀ k : Idx, 9 < k.toNat → memReadEncF e k = none

/-- R144: the encoder's next index under every line of the script. -/
def Obligations.EncoderNextIndex : Prop :=
  ∀ (s t : State) (l : Line) (rest : List Line), s.env.script = l :: rest → step s = .next t →
    t.enc.idx =
      match l with
      | .rst _ => 0#4
      | .port (.encReq _) => if s.enc.busy = true then s.enc.idx else 0#4
      | .port .tx => if s.enc.busy = true then (if s.enc.idx = 9#4 then 0#4 else s.enc.idx + 1#4) else s.enc.idx
      | .port (.rx _ _) => s.enc.idx
      | .block _ => s.enc.idx

/-! ### DEC -/

/-- R162: the byte at offset 0 is compared with the start marker and not stored. Where `DEC.FERR` is 0, as R46(b) says
it is at index 0, it becomes the outcome of the comparison. -/
def Obligations.ByteHeadIsCompared : Prop :=
  ∀ (s : State) (b : Byte), s.dec.idx = 0#4 →
    ∃ f : Bool, (s.dec.ferr = false → f = decide (b ≠ 0xAA#8)) ∧
      exec (.decByteHead b) s = .next { s with dec := { s.dec with ferr := f, idx := 1#4 } }

/-- R163, R170: `command_id` and the checksum byte are stored and not summed. -/
def Obligations.ByteCommandAndChecksumAreStored : Prop :=
  ∀ (s : State) (b : Byte),
    (s.dec.idx = 1#4 →
      exec (.decByteCmd b) s = .next { s with dec := { s.dec with cmd := b, idx := 2#4 } }) ∧
    (s.dec.idx = 8#4 →
      exec (.decByteCsum b) s = .next { s with dec := { s.dec with csrx := b, idx := 9#4 } })

/-- R164 to R169: the payload bytes and the two bytes of `device_id` are stored, the other half of `device_id`
unchanged, and added to the accumulator (addition of bytes, so modulo 256). -/
def Obligations.ByteFieldsAreStoredAndSummed : Prop :=
  ∀ (s : State) (b : Byte),
    (s.dec.idx = 2#4 → exec (.decByteP0 b) s = .next
      { s with dec := { s.dec with p := { s.dec.p with p0 := b }, acc := s.dec.acc + b, idx := 3#4 } }) ∧
    (s.dec.idx = 3#4 → exec (.decByteP1 b) s = .next
      { s with dec := { s.dec with p := { s.dec.p with p1 := b }, acc := s.dec.acc + b, idx := 4#4 } }) ∧
    (s.dec.idx = 4#4 → exec (.decByteP2 b) s = .next
      { s with dec := { s.dec with p := { s.dec.p with p2 := b }, acc := s.dec.acc + b, idx := 5#4 } }) ∧
    (s.dec.idx = 5#4 → exec (.decByteP3 b) s = .next
      { s with dec := { s.dec with p := { s.dec.p with p3 := b }, acc := s.dec.acc + b, idx := 6#4 } }) ∧
    (s.dec.idx = 6#4 → exec (.decByteDevh b) s = .next
      { s with dec := { s.dec with dev := b ++ s.dec.dev.extractLsb' 0 8, acc := s.dec.acc + b, idx := 7#4 } }) ∧
    (s.dec.idx = 7#4 → exec (.decByteDevl b) s = .next
      { s with dec := { s.dec with dev := s.dec.dev.extractLsb' 8 8 ++ b, acc := s.dec.acc + b, idx := 8#4 } })

/-- R171, R172: a tenth byte without `rx_last` makes the block overlong whatever it is; in the overlong state a byte
without `rx_last` is discarded, and nothing changes where `DEC.FERR` is 1, as R46(d) says it is. Where it is 0, in states
that no run reaches, it is set, as R161 says and not R172 (log entry 13, DEDUCED). -/
def Obligations.OverlongBlockIsDiscarded : Prop :=
  ∀ (s : State) (b : Byte),
    (s.dec.idx = 9#4 → exec (.decByteTailNotlast b) s = .next
      { s with dec := { s.dec with ferr := true, idx := 10#4 } }) ∧
    (s.dec.idx = 10#4 → exec (.decByteOver b) s = .next { s with dec := { s.dec with ferr := true } } ∧
      (s.dec.ferr = true → exec (.decByteOver b) s = .next s))

/-- R173 to R177: the tenth byte with `rx_last` gives the framing verdict, the checksum verdict, the status and the
fields of the result, and returns every decoder register to its reset value. The comparison made in the step is
kept in `env.cmp`, which is the model's choice (log entry 11). -/
def Obligations.TailLastReportsTheBlock : Prop :=
  ∀ (s : State) (b : Byte), s.dec.idx = 9#4 →
    exec (.decByteTailLast b) s = .next
      { enc := s.enc
        dec := { idx := 0#4, ferr := false, cmd := 0#8, p := ⟨0#8, 0#8, 0#8, 0#8⟩, dev := 0#16, csrx := 0#8,
                 acc := 0#8 }
        env := afterRes
          (if s.dec.ferr = false ∧ b = 0xAB#8 then
            { status := if s.dec.acc = s.dec.csrx then .ok else .checksumError
              checksumOk := decide (s.dec.acc = s.dec.csrx)
              cmd := s.dec.cmd, p := s.dec.p, dev := s.dec.dev, csum := s.dec.csrx, computed := s.dec.acc }
          else
            { status := .framingError, checksumOk := false, cmd := 0#8, p := ⟨0#8, 0#8, 0#8, 0#8⟩, dev := 0#16,
              csum := 0#8, computed := 0#8 })
          (decide (s.dec.acc = s.dec.csrx)) s.env }

/-- R201 at the port, R176, R177, R161: `rx_last` at an index other than 9 gives FRAMING_ERROR with every other field 0,
whatever the byte, and returns every decoder register to its reset value. The comparison made in the step is kept in
`env.cmp`, which is the model's choice (log entry 11). -/
def Obligations.WrongLengthIsAFramingError : Prop :=
  ∀ (s : State) (b : Byte),
    (s.dec.idx.toNat ≤ 7 → ∃ i : BitVec 3, s.dec.idx = 0#1 ++ i) ∧
    ∀ t : State,
      t = { enc := s.enc
            dec := { idx := 0#4, ferr := false, cmd := 0#8, p := ⟨0#8, 0#8, 0#8, 0#8⟩, dev := 0#16, csrx := 0#8,
                     acc := 0#8 }
            env := afterRes
              { status := .framingError, checksumOk := false, cmd := 0#8, p := ⟨0#8, 0#8, 0#8, 0#8⟩, dev := 0#16,
                csum := 0#8, computed := 0#8 }
              (decide (s.dec.acc = s.dec.csrx)) s.env } →
      (∀ i : BitVec 3, s.dec.idx = 0#1 ++ i → exec (.decByteShortLast i b) s = .next t) ∧
      (s.dec.idx = 8#4 → exec (.decByteShort8Last b) s = .next t) ∧
      (s.dec.idx = 10#4 → exec (.decByteOverLast b) s = .next t)

/-- R161, R173, R175 to R177: `DEC.BYTE` in one formula over `i = DEC.IDX`, as a step on an `rx` event, in every state,
the code of the result's status among it (R175, R200); the code 3 is that of no status.
(`m` is what the model keeps in `env.cmp`, log entry 11; nothing is said of it here.) -/
def Obligations.ByteStepIsTheCommonPart : Prop :=
  ∀ (s : State) (b : Byte) (rest : List Line),
    (s.env.script = .port (.rx b false) :: rest →
      step s = .next
        { enc := s.enc
          dec :=
            { idx := if 9 ≤ s.dec.idx.toNat then 10#4 else s.dec.idx + 1#4
              ferr := s.dec.ferr || decide (s.dec.idx.toNat = 0 ∧ b ≠ 0xAA#8) || decide (9 ≤ s.dec.idx.toNat)
              cmd := if s.dec.idx.toNat = 1 then b else s.dec.cmd
              p := ⟨if s.dec.idx.toNat = 2 then b else s.dec.p.p0, if s.dec.idx.toNat = 3 then b else s.dec.p.p1,
                    if s.dec.idx.toNat = 4 then b else s.dec.p.p2, if s.dec.idx.toNat = 5 then b else s.dec.p.p3⟩
              dev := if s.dec.idx.toNat = 6 then b ++ s.dec.dev.extractLsb' 0 8
                     else if s.dec.idx.toNat = 7 then s.dec.dev.extractLsb' 8 8 ++ b else s.dec.dev
              csrx := if s.dec.idx.toNat = 8 then b else s.dec.csrx
              acc := if 2 ≤ s.dec.idx.toNat ∧ s.dec.idx.toNat ≤ 7 then s.dec.acc + b else s.dec.acc }
          env := { s.env with script := rest } }) ∧
    (s.env.script = .port (.rx b true) :: rest →
      ∃ (m : Bool) (r : ResEvent),
        r = (if s.dec.idx.toNat = 9 ∧ s.dec.ferr = false ∧ b = 0xAB#8 then
            { status := if s.dec.acc = s.dec.csrx then .ok else .checksumError
              checksumOk := decide (s.dec.acc = s.dec.csrx)
              cmd := s.dec.cmd, p := s.dec.p, dev := s.dec.dev, csum := s.dec.csrx, computed := s.dec.acc }
          else
            { status := .framingError, checksumOk := false, cmd := 0#8, p := ⟨0#8, 0#8, 0#8, 0#8⟩, dev := 0#16,
              csum := 0#8, computed := 0#8 }) ∧
        statusCode r.status =
          (if s.dec.idx.toNat = 9 ∧ s.dec.ferr = false ∧ b = 0xAB#8 then
            (if s.dec.acc = s.dec.csrx then 0#2 else 1#2) else 2#2) ∧
        (r.checksumOk = true ↔ statusCode r.status = 0#2) ∧
        step s = .next
          { enc := s.enc
            dec := { idx := 0#4, ferr := false, cmd := 0#8, p := ⟨0#8, 0#8, 0#8, 0#8⟩, dev := 0#16, csrx := 0#8,
                     acc := 0#8 }
            env := afterRes r m { s.env with script := rest } }) ∧
    ∀ st : Status, statusCode st ≠ 3#2

/-- R178: the decoder's next index under every line of the script; a block ends with its own `rx_last`. -/
def Obligations.DecoderNextIndex : Prop :=
  ∀ (s t : State) (l : Line) (rest : List Line), s.dec.idx.toNat ≤ 10 →
    s.env.script = l :: rest → step s = .next t →
    t.dec.idx =
      match l with
      | .rst _ => 0#4
      | .port (.rx _ true) => 0#4
      | .port (.rx _ false) => if s.dec.idx = 10#4 then 10#4 else s.dec.idx + 1#4
      | .block (_ :: _) => 0#4
      | .block [] => s.dec.idx
      | .port (.encReq _) => s.dec.idx
      | .port .tx => s.dec.idx

/-- R179: a line gives as many `res` events as the blocks it ends, one or none, and never takes one back. -/
def Obligations.OneResultForEachBlockEnd : Prop :=
  ∀ (s t : State) (l : Line) (rest : List Line), s.env.script = l :: rest → step s = .next t →
    ∃ new : List ResEvent, t.env.resLog = s.env.resLog ++ new ∧ new.length = lineResults l

/-- R239: while the environment never marks a last byte, an overlong block stays open and gives no result. -/
def Obligations.OverlongBlockNeverEndsByItself : Prop :=
  ∀ (s : State) (bs : List Byte) (rest : List Line), s.dec.idx = 10#4 → s.dec.ferr = true →
    s.env.script = bs.map (fun b => .port (.rx b false)) ++ rest →
    steps bs.length s = .next (s.withScript rest)

/-! ### Frames, rows and words -/

/-- R84, R99, R182: a frame of any kind that comes between two blocks gives the result `decode` gives for its ten bytes
and leaves the decoder in its reset state. That a frame row is this macro is the model's choice (log entry 5). -/
def Obligations.FrameKindsGiveTheResultOfDecode : Prop :=
  ∀ (s : State) (cmd : Byte) (p : Payload) (dev : DevId) (csum : Byte), s.dec = DecState.reset →
    (∃ t, exec (.frameCmd p dev csum) s = .next t ∧ t.enc = s.enc ∧ t.dec = s.dec ∧ t.env.txLog = s.env.txLog ∧
      t.env.script = s.env.script ∧ t.env.wired = s.env.wired ∧
      t.env.resLog = s.env.resLog ++ [decodeEvent (frameBytes 0xB4#8 p dev csum)]) ∧
    (∃ t, exec (.frameSample p dev csum) s = .next t ∧ t.enc = s.enc ∧ t.dec = s.dec ∧ t.env.txLog = s.env.txLog ∧
      t.env.script = s.env.script ∧ t.env.wired = s.env.wired ∧
      t.env.resLog = s.env.resLog ++ [decodeEvent (frameBytes 0xC0#8 p dev csum)]) ∧
    (∃ t, exec (.frameAck p dev csum) s = .next t ∧ t.enc = s.enc ∧ t.dec = s.dec ∧ t.env.txLog = s.env.txLog ∧
      t.env.script = s.env.script ∧ t.env.wired = s.env.wired ∧
      t.env.resLog = s.env.resLog ++ [decodeEvent (frameBytes 0xC5#8 p dev csum)]) ∧
    (∃ t, exec (.frameAny cmd p dev csum) s = .next t ∧ t.enc = s.enc ∧ t.dec = s.dec ∧ t.env.txLog = s.env.txLog ∧
      t.env.script = s.env.script ∧ t.env.wired = s.env.wired ∧
      t.env.resLog = s.env.resLog ++ [decodeEvent (frameBytes cmd p dev csum)])

/-- R82: the envelope's mask and match are those of the rule, they test the two markers of a frame word, and the
decoder reads a frame from the word's ten bytes exactly where they agree, whatever the checksum is. -/
def Obligations.EnvelopeMaskTestsTheMarkers : Prop :=
  envelopeMask = 0xFF0000000000000000FF#80 ∧ envelopeMatch = 0xAA0000000000000000AB#80 ∧
  ∀ w : FrameWord,
    (w &&& envelopeMask = envelopeMatch ↔ frameByte w 0 = 0xAA#8 ∧ frameByte w 9 = 0xAB#8) ∧
    ((∃ i, decodeFrame (bytesOfWord w) = .ok i) ↔ w &&& envelopeMask = envelopeMatch)

/-- R96: where the line at the head of the script selects a row, the step is that row's operation, the line being
used up. -/
def Obligations.StepRunsTheSelectedInstruction : Prop :=
  ∀ (s : State) (l : Line) (rest : List Line) (c : Code) (i : Instr),
    s.env.script = l :: rest → select l (s.withScript rest) = some c → decode c = .ok i →
    step s = exec i (s.withScript rest)

/-- R96: which `Code` each event selects, from the port and the agent's index. -/
def Obligations.EventsSelectByPortAndIndex : Prop :=
  ∀ (s : State) (r : EncReq) (b : Byte) (last : Bool) (es : List PortEvent),
    select (.rst es) s = some .rst ∧
    (s.enc.busy = false → select (.port (.encReq r)) s = some (.encReq r) ∧ select (.port .tx) s = none) ∧
    (s.enc.busy = true → select (.port (.encReq r)) s = none ∧ select (.port .tx) s = some (.tx s.enc.idx)) ∧
    ∃ sel : DecSelector, select (.port (.rx b last)) s = some (.rx sel b) ∧
      sel.toNat = (if last then 16 else 0) + s.dec.idx.toNat

/-- R81, R84, R86, R96: words written out from the spec's tables decode to the rows they stand for, and a word whose head
byte alone is wrong (`0xAB`, as in DV13) decodes to none. -/
def Obligations.WordsOfTheTableDecode : Prop :=
  decodeTableWord 80 0xAAB404010000FFFF03AB = some (.frameCmd ⟨0x04#8, 0x01#8, 0x00#8, 0x00#8⟩ 0xFFFF#16 0x03#8) ∧
  decodeTableWord 80 0xAAC03D025A01CBC2A6AB = some (.frameSample ⟨0x3D#8, 0x02#8, 0x5A#8, 0x01#8⟩ 0xCBC2#16 0xA6#8) ∧
  decodeTableWord 80 0xAAC502010000CBC290AB = some (.frameAck ⟨0x02#8, 0x01#8, 0x00#8, 0x00#8⟩ 0xCBC2#16 0x90#8) ∧
  decodeTableWord 80 0xABC0D4043A0AA1601DAB = none ∧
  decode .rst = .ok .reset ∧
  decode (.tx 6#4) = .ok .encEmitDevh ∧
  decode (.rx 0b00110#5 0xCB#8) = .ok (.decByteDevh 0xCB#8) ∧
  decode (.rx 0b11001#5 0xAB#8) = .ok (.decByteTailLast 0xAB#8) ∧
  decode (.rx 0b10101#5 0x00#8) = .ok (.decByteShortLast 5#3 0x00#8)

/-- Log entry 17: a `Code` that selects a row, once placed, is what the very next step runs, whatever the state was
before; one line stands before the script, and nothing but the script and the registers that can be a selector
(`ENC.BUSY`, `ENC.IDX`, `DEC.IDX`) was changed to place it. -/
def Obligations.PlacedCodeIsRunNext : Prop :=
  ∀ (s : State) (c : Code) (i : Instr), decode c = .ok i →
    step (placeCode c s) = exec i ((placeCode c s).withScript s.env.script) ∧
    ∃ (busy : Bool) (k j : Idx) (l : Line), placeCode c s =
      { enc := { s.enc with busy := busy, idx := k }
        dec := { s.dec with idx := j }
        env := { s.env with script := l :: s.env.script } }

/-- With no event to come a step leaves the block as it is: it waits (log entry 15). -/
def Obligations.WaitingChangesNothing : Prop :=
  ∀ s : State, s.env.script = [] → step s = .next s

/-- R84: what the decoder reads is well-formed, and the encoder gives its `Code` back: no two words of the table's
formats mean the same operation. -/
def Obligations.EncodeOfDecodeGivesTheCode : Prop :=
  ∀ (c : Code) (i : Instr), decode c = .ok i → i.wellFormed = true ∧ encode i = some c

/-- R81, R84, R96: for every well-formed instruction that has an encoding, with every operand at every value, decode
of encode is the instruction; only the CSUM micro-operations have none (R112 to R114). -/
def Obligations.DecodeOfEncodeGivesTheInstruction : Prop :=
  ∀ i : Instr, i.wellFormed = true →
    (∀ c, encode i = some c → decode c = .ok i) ∧
    (encode i = none ↔ (∃ u, i = .csumClr u) ∨ (∃ u b, i = .csumAdd u b) ∨ (∃ u b, i = .csumCmp u b))

/-! ### The function level -/

/-- R110, R111: the checksum is the sum modulo 256, and does not depend on the order of the bytes. -/
def Obligations.ChecksumIsTheSumModulo256 : Prop :=
  (∀ s : List Byte, (checksum s).toNat = (s.map BitVec.toNat).sum % 256) ∧
  (∀ s u : List Byte, s.Perm u → checksum s = checksum u)

/-- R88: `fit4` keeps the front, appends zeros and cuts the end; the request port computes the same, and the
saturation of `plen` at 255 changes nothing. -/
def Obligations.PayloadIsPaddedAndCutAtTheEnd : Prop :=
  (∀ s : List Byte, (payloadBytes (fit4 s)).length = 4 ∧
    ∀ i, i < 4 → (payloadBytes (fit4 s))[i]? = some (if h : i < s.length then s[i] else 0x00#8)) ∧
  (∀ r : EncReq, fitPort r.plen r.pdata = fit4 (requestPayload r)) ∧
  (∀ s : List Byte, fitPort (BitVec.ofNat 8 (min s.length 255)) (fit4 s) = fit4 s)

/-- R117: replacing exactly one byte at offsets 2 to 8 of a well-formed frame gives CHECKSUM_ERROR. -/
def Obligations.SingleByteChangeIsReported : Prop :=
  ∀ (bs : List Byte) (k : Nat) (b : Byte), wellFormedFrame bs = true → 2 ≤ k → k ≤ 8 → bs[k]? ≠ some b →
    (frameDecode (bs.set k b)).1 = .checksumError

/-- R118: what the checksum does not detect: a change of `command_id`, changes of the bytes at offsets 2 to 7 that
cancel modulo 256, and any rearrangement of them; a change of a marker is a framing error. -/
def Obligations.UndetectedChanges : Prop :=
  ∀ (h c b2 b3 b4 b5 b6 b7 k t : Byte), wellFormedFrame [h, c, b2, b3, b4, b5, b6, b7, k, t] = true →
    (∀ c', wellFormedFrame [h, c', b2, b3, b4, b5, b6, b7, k, t] = true) ∧
    (∀ c2 c3 c4 c5 c6 c7 : Byte,
      (c2.toNat + c3.toNat + c4.toNat + c5.toNat + c6.toNat + c7.toNat) % 256 =
        (b2.toNat + b3.toNat + b4.toNat + b5.toNat + b6.toNat + b7.toNat) % 256 →
      wellFormedFrame [h, c, c2, c3, c4, c5, c6, c7, k, t] = true) ∧
    (∀ c2 c3 c4 c5 c6 c7, [c2, c3, c4, c5, c6, c7].Perm [b2, b3, b4, b5, b6, b7] →
      wellFormedFrame [h, c, c2, c3, c4, c5, c6, c7, k, t] = true) ∧
    (∀ h', h' ≠ h → (frameDecode [h', c, b2, b3, b4, b5, b6, b7, k, t]).1 = .framingError) ∧
    (∀ t', t' ≠ t → (frameDecode [h, c, b2, b3, b4, b5, b6, b7, k, t']).1 = .framingError)

/-- R201 to R204, R206: every block has exactly one status, by length, then markers, then checksum. -/
def Obligations.StatusByPriority : Prop :=
  ∀ bs : List Byte,
    ((frameDecode bs).1 = .framingError ↔
      bs.length ≠ 10 ∨ bs[0]? ≠ some 0xAA#8 ∨ bs[9]? ≠ some 0xAB#8) ∧
    ((frameDecode bs).1 = .checksumError ↔
      bs.length = 10 ∧ bs[0]? = some 0xAA#8 ∧ bs[9]? = some 0xAB#8 ∧
        bs[8]? ≠ some (checksum ((bs.take 8).drop 2))) ∧
    ((frameDecode bs).1 = .ok ↔
      bs.length = 10 ∧ bs[0]? = some 0xAA#8 ∧ bs[9]? = some 0xAB#8 ∧
        bs[8]? = some (checksum ((bs.take 8).drop 2))) ∧
    ((frameDecode bs).2 = none ↔ (frameDecode bs).1 = .framingError)

/-- R148: (a) length and markers, (b) a well-formed frame that `decode` returns, (c) `encode` depends on `fit4` of the
payload alone, (d) `encode` is injective on four-byte payloads. -/
def Obligations.EncodeProperties : Prop :=
  (∀ (c : Byte) (s : List Byte) (d : DevId),
    (frameEncode c s d).length = 10 ∧ (frameEncode c s d)[0]? = some 0xAA#8 ∧
    (frameEncode c s d)[9]? = some 0xAB#8 ∧
    frameDecode (frameEncode c s d) = (.ok, some
      { cmd := c, p := fit4 s, dev := d
        csum := checksum (payloadBytes (fit4 s) ++ [d.extractLsb' 8 8, d.extractLsb' 0 8]), checksumOk := true }) ∧
    frameEncode c s d = frameEncode c (payloadBytes (fit4 s)) d) ∧
  (∀ (c c' : Byte) (s s' : List Byte) (d d' : DevId), s.length = 4 → s'.length = 4 →
    frameEncode c s d = frameEncode c' s' d' → c = c' ∧ s = s' ∧ d = d')

/-- R83: the well-formed frames are exactly what `encode` gives for the choices of `command_id`, four payload bytes
and `device_id`, each once. -/
def Obligations.WellFormedFramesAreTheEncodings : Prop :=
  ∀ bs : List Byte, wellFormedFrame bs = true ↔
    ∃! x : Byte × Payload × DevId, bs = frameEncode x.1 (payloadBytes x.2.1) x.2.2

/-! ### The whole machine -/

/-- The invariants of the registers and of the traces hold at reset (R45, R46, R49). -/
def Obligations.ResetMeetsTheInvariants : Prop :=
  RegInv State.reset ∧ TxInv State.reset ∧ ResInv State.reset

/-- R45, R46: every step from a state that meets the invariants of the registers, reached or not, gives one that meets
them. -/
def Obligations.StepKeepsRegisterInvariants : Prop :=
  ∀ s t : State, RegInv s → step s = .next t → RegInv t

/-- R69(b), R175, R176: every step keeps the invariants of the traces: the latest `tx` events are the bytes of the
frame in progress, and every `res` event is one the rules allow. -/
def Obligations.StepKeepsTraceInvariants : Prop :=
  ∀ s t : State, RegInv s → TxInv s → ResInv s → step s = .next t → TxInv t ∧ ResInv t

/-- R206, R208, R246: from a state that meets the invariants of the registers a step always goes on: no fault, no
refusal. -/
def Obligations.StepNeverStops : Prop :=
  ∀ s : State, RegInv s → ∃ t, step s = .next t

/-- R45: in every state reachable from RESET, by any script and either wiring, (a) `ENC.IDX <= 9`, (b) the idle encoder
is in its reset state, (c) the accumulator is the sum of the image's bytes from offset 2 to `min(k, 8) - 1`. -/
def Obligations.ReachableEncoderMeetsR45 : Prop :=
  ∀ (script : List Line) (wired : Bool) (n : Nat) (t : State), steps n (startState script wired) = .next t →
    t.enc.idx.toNat ≤ 9 ∧
    (t.enc.busy = false → t.enc.idx = 0#4 ∧ t.enc.cmd = 0#8 ∧ t.enc.p = ⟨0#8, 0#8, 0#8, 0#8⟩ ∧ t.enc.dev = 0#16 ∧
      t.enc.acc = 0#8) ∧
    (t.enc.busy = true → t.enc.acc.toNat =
      (((List.range' 2 (min t.enc.idx.toNat 8 - 2)).map
        (fun j => ((memReadEncF t.enc (BitVec.ofNat 4 j)).getD 0#8).toNat)).sum) % 256)

/-- R27 to R33, R46: every step keeps the relation between the decoder's registers and the bytes of the open block, in
every state, wired or not: where they hold `bs`, after the line `l` they hold what is open then. -/
def Obligations.StepKeepsTheOpenBlock : Prop :=
  ∀ (s t : State) (bs : List Byte) (l : Line) (rest : List Line),
    DecHolds bs s.dec → s.env.script = l :: rest → step s = .next t → DecHolds (openBlock bs [l]) t.dec

/-- R46: after any run from RESET, wired or not, the decoder's index, flag, accumulator and fields are those of the bytes
received since the last `rx_last` or RESET, which are those of the lines taken; unwired, the lines taken are those of
the script. -/
def Obligations.ReachableDecoderHoldsItsBlock : Prop :=
  (∀ (script : List Line) (wired : Bool) (n : Nat) (t : State), steps n (startState script wired) = .next t →
    DecHolds (openBlock [] (takenLines n (startState script wired))) t.dec) ∧
  (∀ (lines rest : List Line) (t : State), steps lines.length (startState (lines ++ rest) false) = .next t →
    takenLines lines.length (startState (lines ++ rest) false) = lines ∧ DecHolds (openBlock [] lines) t.dec)

/-- R246: a quiescent block that meets the invariants is exactly in its reset state. -/
def Obligations.QuiescentBlockIsReset : Prop :=
  ∀ s : State, RegInv s → quiescent s = true → s.enc = EncState.reset ∧ s.dec = DecState.reset

/-- R20: an operation of ENC neither writes nor reads DEC's state, nor gives a `res` event; an operation of DEC neither
writes nor reads ENC's state, nor gives a `tx` event. -/
def Obligations.AgentsShareNoState : Prop :=
  (∀ (i : Instr) (s : State) (d : DecState), encOp i = true →
    ∃ t, exec i s = .next t ∧ t.dec = s.dec ∧ t.env.resLog = s.env.resLog ∧
      exec i { s with dec := d } = .next { t with dec := d }) ∧
  (∀ (i : Instr) (s : State) (e : EncState), decOp i = true →
    ∃ t, exec i s = .next t ∧ t.enc = s.enc ∧ t.env.txLog = s.env.txLog ∧ t.env.script = s.env.script ∧
      exec i { s with enc := e } = .next { t with enc := e })

/-- R69(d): an operation of ENC and one of DEC give the same state in either order. -/
def Obligations.AgentStepsCommute : Prop :=
  ∀ (i j : Instr) (s : State), encOp i = true → decOp j = true →
    ∃ t u v : State, exec i s = .next t ∧ exec j t = .next v ∧ exec j s = .next u ∧ exec i u = .next v

/-- R69(d), R146: leaving every line of DEC out of an unwired script changes neither ENC's registers nor its trace. -/
def Obligations.EncoderIgnoresDecoderLines : Prop :=
  ∀ (s : State) (lines : List Line), EncInv s.enc → s.env.wired = false →
    ∃ t u : State,
      steps lines.length (s.withScript lines) = .next t ∧
      steps (lines.filter fun l => !decLine l).length (s.withScript (lines.filter fun l => !decLine l)) = .next u ∧
      t.enc = u.enc ∧ t.env.txLog = u.env.txLog

/-- R69(d), R181: leaving every line of ENC out of an unwired script changes neither DEC's registers nor its trace. -/
def Obligations.DecoderIgnoresEncoderLines : Prop :=
  ∀ (s : State) (lines : List Line), EncInv s.enc → s.env.wired = false →
    ∃ t u : State,
      steps lines.length (s.withScript lines) = .next t ∧
      steps (lines.filter fun l => !encLine l).length (s.withScript (lines.filter fun l => !encLine l)) = .next u ∧
      t.dec = u.dec ∧ t.env.resLog = u.env.resLog

/-- R147: a request taken by an idle encoder, with no RESET before its tenth `ENC.EMIT` and any decoder events between,
puts exactly `encode` of it on `tx`, the tenth byte marked, and leaves the encoder in its reset state; and the port
form of a payload of any length stands for that payload. -/
def Obligations.EncodeLinesEmitTheFrame : Prop :=
  (∀ (s : State) (r : EncReq) (lines rest : List Line),
    s.enc.busy = false → s.env.wired = false → s.env.script = lines ++ rest →
    (∀ l ∈ lines, rstLine l = false) → lines.filter encLine = encodeLines r →
    ∃ t : State, steps lines.length s = .next t ∧ t.enc = EncState.reset ∧ t.env.script = rest ∧
      t.env.txLog = s.env.txLog ++ frameEvents (frameEncode r.cmd (requestPayload r) r.dev)) ∧
  (∀ (cmd : Byte) (payload : List Byte) (dev : DevId) (pdata : Payload),
    (∀ i, i < min payload.length 4 → (payloadBytes pdata)[i]? = payload[i]?) →
    ∀ r : EncReq, r = { cmd := cmd, plen := BitVec.ofNat 8 (min payload.length 255), pdata := pdata, dev := dev } →
      frameEncode cmd (requestPayload r) dev = frameEncode cmd payload dev)

/-- R182: a block fed between two blocks, with no RESET and any encoder events between its bytes, gives exactly one
`res` event, the one of `decode` of its bytes, and leaves the decoder in its reset state. -/
def Obligations.DecodeLinesReportTheBlock : Prop :=
  ∀ (s : State) (bs : List Byte) (lines rest : List Line), bs ≠ [] →
    RegInv s → s.dec.idx = 0#4 → s.env.wired = false → s.env.script = lines ++ rest →
    (∀ l ∈ lines, rstLine l = false) → lines.filter decLine = decodeLines bs →
    ∃ t : State, steps lines.length s = .next t ∧ t.dec = DecState.reset ∧ t.env.script = rest ∧
      t.env.resLog = s.env.resLog ++ [decodeEvent bs]

/-- R72, R183 at the port: with `tx` wired to `rx`, a request accepted by a quiescent block comes back as one `res`
event with status OK and the fields as loaded, and the block is in its reset state again. That the run has 21 steps, each
byte being received right after it was sent, rests on the model's form of the wiring (log entry 14). -/
def Obligations.LoopbackReturnsTheRequest : Prop :=
  ∀ (s : State) (r : EncReq) (rest : List Line),
    RegInv s → quiescent s = true → s.env.wired = true → s.env.script = encodeLines r ++ rest →
    ∃ (t : State) (ck : Byte), steps 21 s = .next t ∧ t.enc = EncState.reset ∧ t.dec = DecState.reset ∧
      t.env.script = rest ∧
      t.env.txLog = s.env.txLog ++ frameEvents (frameEncode r.cmd (requestPayload r) r.dev) ∧
      t.env.resLog = s.env.resLog ++ [
        { status := .ok, checksumOk := true, cmd := r.cmd
          p := fitPort r.plen r.pdata, dev := r.dev, csum := ck, computed := ck }]

/-- R99, log entry 6: the one step of a block line is the run of its bytes' lines, in every state. -/
def Obligations.BlockLineEqualsItsByteLines : Prop :=
  ∀ (s : State) (bs : List Byte) (rest : List Line), bs ≠ [] →
    step (s.withScript (.block bs :: rest)) = steps bs.length (s.withScript (decodeLines bs ++ rest))

/-! ### Endless runs -/

/-- R246: the block never halts. For every choice of the environment's events and either wiring there is exactly one
endless run from the state that RESET leaves, and every state of it meets the invariants. (What the environment offers,
step by step, is `input`: log entry 20.) -/
def Obligations.EveryInputHasOneEndlessRun : Prop :=
  ∀ (input : Nat → Option Line) (wired : Bool),
    Run input wired (runOf input wired) ∧
    (∀ r, Run input wired r → r = runOf input wired) ∧
    ∀ n, RegInv (runOf input wired n) ∧ TxInv (runOf input wired n) ∧ ResInv (runOf input wired n)

/-- R245(a), with weak fairness of the `tx` handshake and nothing more: in an endless run whose sink is fair, an accepted
request does not stay in progress for ever; the encoder is idle again at some later state, and, if no RESET was taken up to
there, exactly ten `ENC.EMIT` steps were, which put `encode` of the request on `tx`. (Runs: log entry 20.) -/
def Obligations.FairSinkCompletesEveryRequest : Prop :=
  ∀ (input : Nat → Option Line) (wired : Bool) (r : Nat → State) (n : Nat) (q : EncReq),
    Run input wired r → TxWeaklyFair input r →
    takenAt input r n = some (.port (.encReq q)) → encBusy (r n) = false →
    ∃ k, encBusy (r (n + 1 + k)) = false ∧
      ((∀ j es, j < k → takenAt input r (n + 1 + j) ≠ some (.rst es)) →
        emitCount input r (n + 1) k = 10 ∧ (r (n + 1 + k)).enc = EncState.reset ∧
        (r (n + 1 + k)).env.txLog = (r n).env.txLog ++ frameEvents (frameEncode q.cmd (requestPayload q) q.dev))

/-- R245(b), R239: in an endless run a block completes at its `rx_last` byte and at no other step: the new results of a
step are as many as the blocks that the line it takes ends, whatever came before. (Runs: log entry 20.) -/
def Obligations.EndlessRunReportsAtBlockEnds : Prop :=
  ∀ (input : Nat → Option Line) (wired : Bool) (r : Nat → State), Run input wired r →
    ∀ n, ∃ new : List ResEvent, (r (n + 1)).env.resLog = (r n).env.resLog ++ new ∧
      new.length = ((takenAt input r n).map lineResults).getD 0
end

