-- ==== Sys2Proof/Laws/Encoding.lean ====
section
/-! SUPPORT. The frame word of R81, byte by byte: masks act on the bytes, and the word is its bytes. -/

namespace Sys2Proof

theorem append_and_byte {n : Nat} (x m : BitVec n) (b c : Byte) :
    (x ++ b) &&& (m ++ c) = (x &&& m) ++ (b &&& c) := by
  apply BitVec.eq_of_getLsbD_eq; intro i hi
  simp only [BitVec.getLsbD_and, BitVec.getLsbD_append]
  split <;> simp

/-- A mask on a frame word acts byte by byte. -/
theorem wordOfBytes_and (b0 b1 b2 b3 b4 b5 b6 b7 b8 b9 m0 m1 m2 m3 m4 m5 m6 m7 m8 m9 : Byte) :
    wordOfBytes b0 b1 b2 b3 b4 b5 b6 b7 b8 b9 &&& wordOfBytes m0 m1 m2 m3 m4 m5 m6 m7 m8 m9 =
      wordOfBytes (b0 &&& m0) (b1 &&& m1) (b2 &&& m2) (b3 &&& m3) (b4 &&& m4) (b5 &&& m5)
        (b6 &&& m6) (b7 &&& m7) (b8 &&& m8) (b9 &&& m9) := by
  simp only [wordOfBytes]
  refine (append_and_byte _ _ _ _).trans ?_
  congr 1
  repeat (first | rfl | (refine (append_and_byte _ _ _ _).trans ?_; congr 1))

/-- R81: the value of a frame word. -/
theorem wordOfBytes_toNat (b0 b1 b2 b3 b4 b5 b6 b7 b8 b9 : Byte) :
    (wordOfBytes b0 b1 b2 b3 b4 b5 b6 b7 b8 b9).toNat =
      b0.toNat * 2 ^ 72 + b1.toNat * 2 ^ 64 + b2.toNat * 2 ^ 56 + b3.toNat * 2 ^ 48 + b4.toNat * 2 ^ 40 +
      b5.toNat * 2 ^ 32 + b6.toNat * 2 ^ 24 + b7.toNat * 2 ^ 16 + b8.toNat * 2 ^ 8 + b9.toNat := by
  have h : ∀ {n : Nat} (x : BitVec n) (b : Byte), (x ++ b).toNat = x.toNat * 256 + b.toNat := by
    intro n x b
    rw [BitVec.toNat_append, ← Nat.shiftLeft_add_eq_or_of_lt b.isLt, Nat.shiftLeft_eq]
  simp only [wordOfBytes]
  rw [h, h, h, h, h, h, h, h, h]
  omega

/-- A frame word is its bytes. -/
theorem wordOfBytes_inj {b0 b1 b2 b3 b4 b5 b6 b7 b8 b9 c0 c1 c2 c3 c4 c5 c6 c7 c8 c9 : Byte} :
    wordOfBytes b0 b1 b2 b3 b4 b5 b6 b7 b8 b9 = wordOfBytes c0 c1 c2 c3 c4 c5 c6 c7 c8 c9 ↔
      b0 = c0 ∧ b1 = c1 ∧ b2 = c2 ∧ b3 = c3 ∧ b4 = c4 ∧ b5 = c5 ∧ b6 = c6 ∧ b7 = c7 ∧ b8 = c8 ∧ b9 = c9 := by
  constructor
  · intro h
    have h' := congrArg BitVec.toNat h
    simp only [wordOfBytes_toNat] at h'
    simp only [← BitVec.toNat_inj]
    have := b0.isLt; have := b1.isLt; have := b2.isLt; have := b3.isLt; have := b4.isLt
    have := b5.isLt; have := b6.isLt; have := b7.isLt; have := b8.isLt; have := b9.isLt
    have := c0.isLt; have := c1.isLt; have := c2.isLt; have := c3.isLt; have := c4.isLt
    have := c5.isLt; have := c6.isLt; have := c7.isLt; have := c8.isLt; have := c9.isLt
    omega
  · rintro ⟨rfl, rfl, rfl, rfl, rfl, rfl, rfl, rfl, rfl, rfl⟩; rfl

theorem nat_byte_step (n k : Nat) : n / 2 ^ (k + 8) * 256 + n / 2 ^ k % 256 = n / 2 ^ k := by
  rw [pow_add, ← Nat.div_div_eq_div_mul]
  omega
/-- R81: a frame word is the word of its ten bytes. -/
theorem wordOfBytes_frameByte (w : FrameWord) :
    wordOfBytes (frameByte w 0) (frameByte w 1) (frameByte w 2) (frameByte w 3) (frameByte w 4)
      (frameByte w 5) (frameByte w 6) (frameByte w 7) (frameByte w 8) (frameByte w 9) = w := by
  have h : ∀ {n : Nat} (x : BitVec n) (b : Byte), (x ++ b).toNat = x.toNat * 256 + b.toNat := by
    intro n x b
    rw [BitVec.toNat_append, ← Nat.shiftLeft_add_eq_or_of_lt b.isLt, Nat.shiftLeft_eq]
  have hb : ∀ k, (frameByte w k).toNat = w.toNat / 2 ^ (72 - 8 * k) % 256 := by
    intro k
    simp only [frameByte, BitVec.extractLsb'_toNat, Nat.shiftRight_eq_div_pow, Nat.reducePow]
  have h9 : w.toNat / 2 ^ (72 - 8 * 0) % 256 = w.toNat / 2 ^ (64 + 8) := by
    have := w.isLt
    apply Nat.mod_eq_of_lt
    omega
  apply BitVec.eq_of_toNat_eq
  simp only [wordOfBytes]
  rw [h, h, h, h, h, h, h, h, h]
  simp only [hb]
  rw [h9, nat_byte_step, nat_byte_step _ 56, nat_byte_step _ 48, nat_byte_step _ 40, nat_byte_step _ 32,
    nat_byte_step _ 24, nat_byte_step _ 16, nat_byte_step _ 8, nat_byte_step _ 0]
  simp
theorem byte_and_ones (b : Byte) : b &&& 0xFF#8 = b := by
  have : (0xFF#8 : Byte) = BitVec.allOnes 8 := by decide
  rw [this, BitVec.and_allOnes]

/-- R84: what the mask of the listed kinds keeps. -/
theorem word_and_kindMask (b0 b1 b2 b3 b4 b5 b6 b7 b8 b9 c : Byte) :
    wordOfBytes b0 b1 b2 b3 b4 b5 b6 b7 b8 b9 &&& kindMask =
      wordOfBytes Config.head c 0#8 0#8 0#8 0#8 0#8 0#8 0#8 Config.tail ↔
    b0 = Config.head ∧ b1 = c ∧ b9 = Config.tail := by
  have hm : kindMask = wordOfBytes 0xFF#8 0xFF#8 0#8 0#8 0#8 0#8 0#8 0#8 0#8 0xFF#8 := by decide
  rw [hm, wordOfBytes_and, wordOfBytes_inj]
  simp only [byte_and_ones, BitVec.and_zero, true_and]

/-- R82: what the envelope's mask keeps. -/
theorem word_and_envelopeMask (b0 b1 b2 b3 b4 b5 b6 b7 b8 b9 : Byte) :
    wordOfBytes b0 b1 b2 b3 b4 b5 b6 b7 b8 b9 &&& envelopeMask =
      wordOfBytes Config.head 0#8 0#8 0#8 0#8 0#8 0#8 0#8 0#8 Config.tail ↔
    b0 = Config.head ∧ b9 = Config.tail := by
  have hm : envelopeMask = wordOfBytes 0xFF#8 0#8 0#8 0#8 0#8 0#8 0#8 0#8 0#8 0xFF#8 := by decide
  rw [hm, wordOfBytes_and, wordOfBytes_inj]
  simp only [byte_and_ones, BitVec.and_zero, true_and]

theorem cmdMatch_eq : cmdMatch = wordOfBytes Config.head Config.cmdOut 0#8 0#8 0#8 0#8 0#8 0#8 0#8 Config.tail := by
  decide

theorem sampleMatch_eq :
    sampleMatch = wordOfBytes Config.head Config.cmdSample 0#8 0#8 0#8 0#8 0#8 0#8 0#8 Config.tail := by decide

theorem ackMatch_eq : ackMatch = wordOfBytes Config.head Config.cmdAck 0#8 0#8 0#8 0#8 0#8 0#8 0#8 Config.tail := by
  decide

theorem envelopeMatch_eq :
    envelopeMatch = wordOfBytes Config.head 0#8 0#8 0#8 0#8 0#8 0#8 0#8 0#8 Config.tail := by decide

/-- R84: the frame kind of ten bytes, by the bytes themselves. -/
theorem decodeFrame_ten (b0 b1 b2 b3 b4 b5 b6 b7 b8 b9 : Byte) :
    decodeFrame [b0, b1, b2, b3, b4, b5, b6, b7, b8, b9] =
      if b0 = Config.head ∧ b9 = Config.tail then
        if b1 = Config.cmdOut then .ok (.frameCmd ⟨b2, b3, b4, b5⟩ (devOf b6 b7) b8)
        else if b1 = Config.cmdSample then .ok (.frameSample ⟨b2, b3, b4, b5⟩ (devOf b6 b7) b8)
        else if b1 = Config.cmdAck then .ok (.frameAck ⟨b2, b3, b4, b5⟩ (devOf b6 b7) b8)
        else .ok (.frameAny b1 ⟨b2, b3, b4, b5⟩ (devOf b6 b7) b8)
      else .error .badMarker := by
  simp only [decodeFrame, cmdMatch_eq, sampleMatch_eq, ackMatch_eq, envelopeMatch_eq, word_and_kindMask,
    word_and_envelopeMask]
  by_cases h0 : b0 = Config.head <;> by_cases h9 : b9 = Config.tail <;> simp [h0, h9]

end Sys2Proof
end

