-- ==== Sys2Proof/Laws/State.lean ====
section
/-! SUPPORT. The fields of a state after each update, true by unfolding. -/

namespace Sys2Proof.Machine

section Setters
variable (s : State) (e : EncState) (d : DecState) (l : List Line)

@[simp] theorem setEnc_enc : (s.setEnc e).enc = e := rfl
@[simp] theorem setEnc_dec : (s.setEnc e).dec = s.dec := rfl
@[simp] theorem setEnc_env : (s.setEnc e).env = s.env := rfl
@[simp] theorem setDec_enc : (s.setDec d).enc = s.enc := rfl
@[simp] theorem setDec_dec : (s.setDec d).dec = d := rfl
@[simp] theorem setDec_env : (s.setDec d).env = s.env := rfl
@[simp] theorem withScript_enc : (s.withScript l).enc = s.enc := rfl
@[simp] theorem withScript_dec : (s.withScript l).dec = s.dec := rfl
@[simp] theorem withScript_script : (s.withScript l).env.script = l := rfl
@[simp] theorem withScript_wired : (s.withScript l).env.wired = s.env.wired := rfl
@[simp] theorem withScript_txLog : (s.withScript l).env.txLog = s.env.txLog := rfl
@[simp] theorem withScript_resLog : (s.withScript l).env.resLog = s.env.resLog := rfl
@[simp] theorem withScript_cmp : (s.withScript l).env.cmp = s.env.cmp := rfl
@[simp] theorem withScript_withScript (m : List Line) : (s.withScript l).withScript m = s.withScript m := rfl
@[simp] theorem withScript_self : s.withScript s.env.script = s := rfl

end Setters

section Ports
variable (s : State) (ev : TxEvent) (r : ResEvent) (m : Bool)

@[simp] theorem sendTx_enc : (sendTx ev s).enc = s.enc := rfl
@[simp] theorem sendTx_dec : (sendTx ev s).dec = s.dec := rfl
@[simp] theorem sendTx_txLog : (sendTx ev s).env.txLog = s.env.txLog ++ [ev] := rfl
@[simp] theorem sendTx_resLog : (sendTx ev s).env.resLog = s.env.resLog := rfl
@[simp] theorem sendTx_wired : (sendTx ev s).env.wired = s.env.wired := rfl
@[simp] theorem sendTx_cmp : (sendTx ev s).env.cmp = s.env.cmp := rfl

/-- R72: unwired, a `tx` event leaves the events to come. -/
theorem sendTx_script_unwired (h : s.env.wired = false) : (sendTx ev s).env.script = s.env.script := by
  simp [sendTx, h]

/-- R72: wired, a `tx` event comes back as the next `rx` event. -/
theorem sendTx_script_wired (h : s.env.wired = true) :
    (sendTx ev s).env.script = .port (.rx ev.data ev.last) :: s.env.script := by
  simp [sendTx, h]

@[simp] theorem sendRes_enc : (sendRes r s).enc = s.enc := rfl
@[simp] theorem sendRes_dec : (sendRes r s).dec = s.dec := rfl
@[simp] theorem sendRes_txLog : (sendRes r s).env.txLog = s.env.txLog := rfl
@[simp] theorem sendRes_resLog : (sendRes r s).env.resLog = s.env.resLog ++ [r] := rfl
@[simp] theorem sendRes_script : (sendRes r s).env.script = s.env.script := rfl
@[simp] theorem sendRes_wired : (sendRes r s).env.wired = s.env.wired := rfl
@[simp] theorem sendRes_cmp : (sendRes r s).env.cmp = s.env.cmp := rfl

@[simp] theorem setCmp_enc : (setCmp m s).enc = s.enc := rfl
@[simp] theorem setCmp_dec : (setCmp m s).dec = s.dec := rfl
@[simp] theorem setCmp_txLog : (setCmp m s).env.txLog = s.env.txLog := rfl
@[simp] theorem setCmp_resLog : (setCmp m s).env.resLog = s.env.resLog := rfl
@[simp] theorem setCmp_script : (setCmp m s).env.script = s.env.script := rfl
@[simp] theorem setCmp_wired : (setCmp m s).env.wired = s.env.wired := rfl
@[simp] theorem setCmp_cmp : (setCmp m s).env.cmp = some m := rfl

@[simp] theorem reportBlock_enc : (reportBlock r s).enc = s.enc := rfl
@[simp] theorem reportBlock_dec : (reportBlock r s).dec = DecState.reset := rfl
@[simp] theorem reportBlock_txLog : (reportBlock r s).env.txLog = s.env.txLog := rfl
@[simp] theorem reportBlock_resLog : (reportBlock r s).env.resLog = s.env.resLog ++ [r] := rfl
@[simp] theorem reportBlock_script : (reportBlock r s).env.script = s.env.script := rfl
@[simp] theorem reportBlock_wired : (reportBlock r s).env.wired = s.env.wired := rfl

end Ports

end Sys2Proof.Machine
end

