-- ==== Sys2Proof/Laws/Ops.lean ====
section
/-! SUPPORT. What each shared operation does, said once: the accumulator, the halves of `device_id`, the common
parts of `ENC.EMIT` and `DEC.BYTE`, and what a line of the script runs. -/

namespace Sys2Proof.Machine

/-! ### Bytes -/

/-- R111: the adder with the discarded carry is addition of bytes. -/
@[simp] theorem csumSum_eq_add (a b : Byte) : csumSum a b = a + b := by
  apply BitVec.eq_of_toNat_eq
  simp only [csumSum, BitVec.extractLsb'_toNat, BitVec.toNat_add, BitVec.truncate_eq_setWidth,
    BitVec.toNat_setWidth, Nat.shiftRight_zero]
  omega

@[simp] theorem csumMatch_eq (a c : Byte) : csumMatch a c = (a == c) := rfl

/-- R86: the bits of a `device_id`, the high byte above the low one. -/
theorem devOf_getLsbD (h l : Byte) (i : Nat) :
    (devOf h l).getLsbD i = if i < 8 then l.getLsbD i else h.getLsbD (i - 8) :=
  (BitVec.getLsbD_append (x := h) (y := l) (i := i)).trans (by split <;> rfl)

@[simp] theorem devHigh_devOf (h l : Byte) : devHigh (devOf h l) = h := by
  apply BitVec.eq_of_getLsbD_eq; intro i hi
  simp [devHigh, devOf_getLsbD, hi]

@[simp] theorem devLow_devOf (h l : Byte) : devLow (devOf h l) = l := by
  apply BitVec.eq_of_getLsbD_eq; intro i hi
  simp [devLow, devOf_getLsbD, hi]

@[simp] theorem devOf_high_low (d : DevId) : devOf (devHigh d) (devLow d) = d := by
  apply BitVec.eq_of_getLsbD_eq; intro i hi
  rw [devOf_getLsbD]
  split
  · simp [devLow, *]
  · have h8 : i - 8 < 8 := by omega
    have : 8 + (i - 8) = i := by omega
    simp [devHigh, h8, this]

/-! ### DEC.BYTE -/

theorem decAt_self {k : Idx} {s : State} (f : State → State) (h : s.dec.idx = k) : decAt k f s = f s :=
  if_pos h

theorem decAt_other {k : Idx} {s : State} (f : State → State) (h : s.dec.idx ≠ k) : decAt k f s = s :=
  if_neg h

theorem encAt_self {k : Idx} {s : State} (f : State → State) (hb : s.enc.busy = true) (h : s.enc.idx = k) :
    encAt k f s = f s := if_pos ⟨hb, h⟩

theorem encAt_idle {k : Idx} {s : State} (f : State → State) (hb : s.enc.busy = false) : encAt k f s = s := by
  simp [encAt, hb]

/-- R20: a byte on `rx` leaves ENC, its trace and the events to come. -/
theorem decByte_frame (b : Byte) (last : Bool) (s : State) :
    (decByte b last s).enc = s.enc ∧ (decByte b last s).env.txLog = s.env.txLog ∧
    (decByte b last s).env.script = s.env.script ∧ (decByte b last s).env.wired = s.env.wired := by
  cases last <;> exact ⟨rfl, rfl, rfl, rfl⟩

/-- R20: a block leaves ENC, its trace and the events to come. -/
theorem decBlock_frame (bs : List Byte) (s : State) :
    (decBlock bs s).enc = s.enc ∧ (decBlock bs s).env.txLog = s.env.txLog ∧
    (decBlock bs s).env.script = s.env.script ∧ (decBlock bs s).env.wired = s.env.wired := by
  induction bs, s using decBlock.induct with
  | case1 s => exact ⟨rfl, rfl, rfl, rfl⟩
  | case2 b s => exact decByte_frame b true s
  | case3 b b' bs s ih =>
    obtain ⟨h1, h2, h3, h4⟩ := ih
    obtain ⟨g1, g2, g3, g4⟩ := decByte_frame b false s
    exact ⟨h1.trans g1, h2.trans g2, h3.trans g3, h4.trans g4⟩

/-- R177: after the byte with `rx_last` the decoder is in its reset state. -/
theorem decByte_last_dec (b : Byte) (s : State) : (decByte b true s).dec = DecState.reset := rfl

/-- R177, for a block. -/
theorem decBlock_dec (b : Byte) (bs : List Byte) (s : State) :
    (decBlock (b :: bs) s).dec = DecState.reset := by
  induction bs generalizing b s with
  | nil => rfl
  | cons b' bs ih => exact ih b' _

/-- R179: a block gives one result. -/
theorem decBlock_resLog_length (b : Byte) (bs : List Byte) (s : State) :
    (decBlock (b :: bs) s).env.resLog.length = s.env.resLog.length + 1 := by
  induction bs generalizing b s with
  | nil => simp [decBlock, decByte]
  | cons b' bs ih => exact (ih b' (decByte b false s)).trans rfl

/-- R161, R173: away from index 9 a block's last byte reports a framing error. -/
theorem blockResult_off_nine {d : DecState} (b : Byte) (h : d.idx ≠ 9#4) :
    blockResult d b = framingErrorResult := by
  simp [blockResult, framingOk, h]

/-! ### What a line runs -/

/-- R131, R133: a request. -/
theorem runLine_encReq (r : EncReq) (s : State) :
    runLine (.port (.encReq r)) s = .next (if s.enc.busy then s else s.setEnc (loadedEnc r)) := by
  cases h : s.enc.busy <;> simp [runLine, select, h, decode, exec, execEncLoad]

/-- R231: the reset. -/
theorem runLine_rst (es : List PortEvent) (s : State) :
    runLine (.rst es) s = .next ((s.setEnc EncState.reset).setDec DecState.reset) := rfl

/-- R132: with ENC idle there is no byte to take. -/
theorem runLine_tx_idle {s : State} (h : s.enc.busy = false) : runLine (.port .tx) s = .next s := by
  simp [runLine, select, h]

/-- A step is a line of the script. -/
theorem step_cons {s : State} {l : Line} {rest : List Line} (h : s.env.script = l :: rest) :
    step s = runLine l (s.withScript rest) := by
  simp [step, h]

/-- With no event to come the block waits. -/
theorem step_nil {s : State} (h : s.env.script = []) : step s = .next s := by
  simp [step, h]

end Sys2Proof.Machine
end

