-- ==== Sys2Proof/Laws/Lines.lean ====
section
/-! SUPPORT. What each line of the event script does to the state, said once: the inversion of `runLine` that every
proof about `step` cites. -/

namespace Sys2Proof.Machine

/-- The sixteen values of a byte index. -/
theorem idx_cases (k : Idx) :
    k = 0#4 ∨ k = 1#4 ∨ k = 2#4 ∨ k = 3#4 ∨ k = 4#4 ∨ k = 5#4 ∨ k = 6#4 ∨ k = 7#4 ∨ k = 8#4 ∨ k = 9#4 ∨
    k = 10#4 ∨ k = 11#4 ∨ k = 12#4 ∨ k = 13#4 ∨ k = 14#4 ∨ k = 15#4 := by
  revert k; decide

/-- R161, R162 to R177: an `rx` event is the common part of `DEC.BYTE`, in every state. -/
theorem runLine_rx (b : Byte) (last : Bool) (s : State) :
    runLine (.port (.rx b last)) s = .next (decByte b last s) := by
  rcases idx_cases s.dec.idx with h | h | h | h | h | h | h | h | h | h | h | h | h | h | h | h <;> cases last <;>
  simp [runLine, select, h, decode, decodeRx, exec, execDecByteHead, execDecByteCmd, execDecByteP0, execDecByteP1,
    execDecByteP2, execDecByteP3, execDecByteDevh, execDecByteDevl, execDecByteCsum, execDecByteTailNotlast,
    execDecByteOver, execDecByteTailLast, execDecByteShortLast, execDecByteShort8Last, execDecByteOverLast, decAt,
    takePlain, takeSummed, decByte, decStore, memWriteDecF, summedOffset, ferrNext, headBad, decIdxNext, unlisted,
    blockResult, framingOk]

/-- R132, R134 to R143: a `tx` event while busy is the common part of `ENC.EMIT`. -/
theorem runLine_tx_busy {s : State} (hb : s.enc.busy = true) (hi : s.enc.idx.toNat ≤ 9) :
    ∃ b, memReadEncF s.enc s.enc.idx = some b ∧
      runLine (.port .tx) s =
        .next (sendTx ⟨b, txLast s.enc.idx⟩ (s.setEnc (encAfter s.enc.idx b s.enc))) := by
  rcases idx_cases s.enc.idx with h | h | h | h | h | h | h | h | h | h | h | h | h | h | h | h <;>
  (try (rw [h] at hi; exact absurd hi (by decide))) <;>
  simp [runLine, select, h, hb, decode, decodeTx, exec, execEncEmitHead, execEncEmitCmd, execEncEmitP0,
    execEncEmitP1, execEncEmitP2, execEncEmitP3, execEncEmitDevh, execEncEmitDevl, execEncEmitCsum, execEncEmitTail,
    encAt, emitPlain, emitSummed, encAfter, memReadEncF, summedOffset, txLast]

/-- R60: a `tx` event at an offset that does not exist stops. -/
theorem runLine_tx_fault {s : State} (hb : s.enc.busy = true) (hi : 9 < s.enc.idx.toNat) :
    runLine (.port .tx) s = .fault .encOffset := by
  rcases idx_cases s.enc.idx with h | h | h | h | h | h | h | h | h | h | h | h | h | h | h | h <;>
  (try (rw [h] at hi; exact absurd hi (by decide))) <;>
  simp [runLine, select, hb, h, decode, decodeTx, unlisted, encEmit, memReadEncF]

/-- R99: a block line is its bytes, received in order, whether or not the block is a frame. -/
theorem runLine_block (b : Byte) (bs : List Byte) (s : State) :
    runLine (.block (b :: bs)) s = .next (decBlock (b :: bs) s) := by
  simp only [runLine, select, decode]
  by_cases hl : ∃ b1 b2 b3 b4 b5 b6 b7 b8 b9, bs = [b1, b2, b3, b4, b5, b6, b7, b8, b9]
  · obtain ⟨b1, b2, b3, b4, b5, b6, b7, b8, b9, rfl⟩ := hl
    rw [decodeFrame_ten]
    by_cases h : b = Config.head ∧ b9 = Config.tail
    · obtain ⟨rfl, rfl⟩ := h
      by_cases h1 : b1 = Config.cmdOut
      · subst h1; simp [exec, execFrameCmd, receiveFrame, frameBytes]
      by_cases h2 : b1 = Config.cmdSample
      · subst h2; simp [h1, exec, execFrameSample, receiveFrame, frameBytes]
      by_cases h3 : b1 = Config.cmdAck
      · subst h3; simp [h1, h2, exec, execFrameAck, receiveFrame, frameBytes]
      simp [h1, h2, h3, exec, execFrameAny, receiveFrame, frameBytes]
    · simp only [h, if_false]; rfl
  · have hw : decodeFrame (b :: bs) = .error .wrongLength := by
      rcases bs with _ | ⟨b1, _ | ⟨b2, _ | ⟨b3, _ | ⟨b4, _ | ⟨b5, _ | ⟨b6, _ | ⟨b7, _ | ⟨b8, _ | ⟨b9, _ |
        ⟨b10, bs⟩⟩⟩⟩⟩⟩⟩⟩⟩⟩ <;>
      first | rfl | (exfalso; exact hl ⟨_, _, _, _, _, _, _, _, _, rfl⟩)
    rw [hw]; rfl

/-- The empty block cannot be presented (R182): the line changes nothing. -/
theorem runLine_block_nil (s : State) : runLine (.block []) s = .next s := rfl

/-- What a line can do, for every line: the cases that every invariant is proved over. -/
theorem runLine_cases {l : Line} {s t : State} (h : runLine l s = .next t) :
    (∃ es, l = .rst es ∧ t = (s.setEnc EncState.reset).setDec DecState.reset) ∨
    (∃ r, l = .port (.encReq r) ∧ s.enc.busy = true ∧ t = s) ∨
    (∃ r, l = .port (.encReq r) ∧ s.enc.busy = false ∧ t = s.setEnc (loadedEnc r)) ∨
    (l = .port .tx ∧ s.enc.busy = false ∧ t = s) ∨
    (∃ b, l = .port .tx ∧ s.enc.busy = true ∧ s.enc.idx.toNat ≤ 9 ∧ memReadEncF s.enc s.enc.idx = some b ∧
      t = sendTx ⟨b, txLast s.enc.idx⟩ (s.setEnc (encAfter s.enc.idx b s.enc))) ∨
    (∃ b last, l = .port (.rx b last) ∧ t = decByte b last s) ∨
    (l = .block [] ∧ t = s) ∨
    (∃ b bs, l = .block (b :: bs) ∧ t = decBlock (b :: bs) s) := by
  rcases l with es | e | bs
  · rw [runLine_rst] at h; cases h; exact .inl ⟨es, rfl, rfl⟩
  · rcases e with r | _ | ⟨b, last⟩
    · rw [runLine_encReq] at h; cases h
      cases hb : s.enc.busy
      · exact .inr (.inr (.inl ⟨r, rfl, rfl, rfl⟩))
      · exact .inr (.inl ⟨r, rfl, rfl, rfl⟩)
    · cases hb : s.enc.busy
      · rw [runLine_tx_idle hb] at h; cases h
        exact .inr (.inr (.inr (.inl ⟨rfl, rfl, rfl⟩)))
      · by_cases hi : s.enc.idx.toNat ≤ 9
        · obtain ⟨b, h1, h2⟩ := runLine_tx_busy hb hi
          rw [h2] at h; cases h
          exact .inr (.inr (.inr (.inr (.inl ⟨b, rfl, rfl, hi, h1, rfl⟩))))
        · rw [runLine_tx_fault hb (by omega)] at h; cases h
    · rw [runLine_rx] at h; cases h
      exact .inr (.inr (.inr (.inr (.inr (.inl ⟨b, last, rfl, rfl⟩)))))
  · rcases bs with _ | ⟨b, bs⟩
    · rw [runLine_block_nil] at h; cases h
      exact .inr (.inr (.inr (.inr (.inr (.inr (.inl ⟨rfl, rfl⟩))))))
    · rw [runLine_block] at h; cases h
      exact .inr (.inr (.inr (.inr (.inr (.inr (.inr ⟨b, bs, rfl, rfl⟩))))))

end Sys2Proof.Machine
end

