-- ==== Sys2Proof/Laws/PerInstr.lean ====
section
/-! SUPPORT. Families of statements about every instruction. `RowMatch`: the word of an instruction's encoding is a
word of its row of spec/opcode_table.json, by the row's own mask and match (R81 to R84, R96). -/

namespace Sys2Proof.Laws

/-- R84, R96: the encoding of a well-formed instruction has its row's format, and its row's mask and match take its
word. -/
def RowMatch.Statement (i : Instr) : Prop :=
  i.wellFormed = true → ∀ c, encode i = some c →
    ∃ w, c.word = some (i.row.format, w) ∧ w &&& i.row.mask = i.row.value

theorem word_and_kindMask_toNat (cmd b2 b3 b4 b5 b6 b7 b8 : Byte) :
    (wordOfBytes Config.head cmd b2 b3 b4 b5 b6 b7 b8 Config.tail).toNat &&& 0xFFFF00000000000000FF =
      (wordOfBytes Config.head cmd 0#8 0#8 0#8 0#8 0#8 0#8 0#8 Config.tail).toNat := by
  rw [← (word_and_kindMask Config.head cmd b2 b3 b4 b5 b6 b7 b8 Config.tail cmd).2 ⟨rfl, rfl, rfl⟩, BitVec.toNat_and]
  rfl

theorem word_and_envelopeMask_toNat (cmd b2 b3 b4 b5 b6 b7 b8 : Byte) :
    (wordOfBytes Config.head cmd b2 b3 b4 b5 b6 b7 b8 Config.tail).toNat &&& 0xFF0000000000000000FF =
      (wordOfBytes Config.head 0#8 0#8 0#8 0#8 0#8 0#8 0#8 0#8 Config.tail).toNat := by
  rw [← (word_and_envelopeMask Config.head cmd b2 b3 b4 b5 b6 b7 b8 Config.tail).2 ⟨rfl, rfl⟩, BitVec.toNat_and]
  rfl

namespace RowMatch

theorem of_word {i : Instr} {c : Code} {w : Nat} (h : encode i = some c) (hw : c.word = some (i.row.format, w))
    (hm : w &&& i.row.mask = i.row.value) : Statement i := by
  intro _ c' h'
  rw [h] at h'
  cases h'
  exact ⟨w, hw, hm⟩

theorem of_none {i : Instr} (h : encode i = none) : Statement i := by
  intro _ c' h'
  rw [h] at h'
  cases h'

/-- R96: the row's pattern 10xxx, for every value of the three free bits. -/
theorem shortLast_word (i : BitVec 3) : (0b10#2 ++ i).toNat &&& 0x18 = 0x10 := by
  revert i; decide

theorem frameCmd (p : Payload) (dev : DevId) (csum : Byte) : Statement (.frameCmd p dev csum) :=
  of_word rfl rfl ((word_and_kindMask_toNat _ _ _ _ _ _ _ _).trans rfl)

theorem frameSample (p : Payload) (dev : DevId) (csum : Byte) : Statement (.frameSample p dev csum) :=
  of_word rfl rfl ((word_and_kindMask_toNat _ _ _ _ _ _ _ _).trans rfl)

theorem frameAck (p : Payload) (dev : DevId) (csum : Byte) : Statement (.frameAck p dev csum) :=
  of_word rfl rfl ((word_and_kindMask_toNat _ _ _ _ _ _ _ _).trans rfl)

theorem frameAny (cmd : Byte) (p : Payload) (dev : DevId) (csum : Byte) : Statement (.frameAny cmd p dev csum) :=
  of_word rfl rfl ((word_and_envelopeMask_toNat _ _ _ _ _ _ _ _).trans rfl)

theorem reset : Statement .reset := of_word rfl rfl (show (0 &&& 0 : Nat) = 0 from rfl)

theorem encLoad (r : EncReq) : Statement (.encLoad r) := of_word rfl rfl (show (0 &&& 0 : Nat) = 0 from rfl)

theorem encEmitHead : Statement .encEmitHead := of_word rfl rfl (show (0x0 &&& 0xF : Nat) = 0x0 from rfl)

theorem encEmitCmd : Statement .encEmitCmd := of_word rfl rfl (show (0x1 &&& 0xF : Nat) = 0x1 from rfl)

theorem encEmitP0 : Statement .encEmitP0 := of_word rfl rfl (show (0x2 &&& 0xF : Nat) = 0x2 from rfl)

theorem encEmitP1 : Statement .encEmitP1 := of_word rfl rfl (show (0x3 &&& 0xF : Nat) = 0x3 from rfl)

theorem encEmitP2 : Statement .encEmitP2 := of_word rfl rfl (show (0x4 &&& 0xF : Nat) = 0x4 from rfl)

theorem encEmitP3 : Statement .encEmitP3 := of_word rfl rfl (show (0x5 &&& 0xF : Nat) = 0x5 from rfl)

theorem encEmitDevh : Statement .encEmitDevh := of_word rfl rfl (show (0x6 &&& 0xF : Nat) = 0x6 from rfl)

theorem encEmitDevl : Statement .encEmitDevl := of_word rfl rfl (show (0x7 &&& 0xF : Nat) = 0x7 from rfl)

theorem encEmitCsum : Statement .encEmitCsum := of_word rfl rfl (show (0x8 &&& 0xF : Nat) = 0x8 from rfl)

theorem encEmitTail : Statement .encEmitTail := of_word rfl rfl (show (0x9 &&& 0xF : Nat) = 0x9 from rfl)

theorem decByteHead (b : Byte) : Statement (.decByteHead b) :=
  of_word rfl rfl (show (0x00 &&& 0x1F : Nat) = 0x00 from rfl)

theorem decByteCmd (b : Byte) : Statement (.decByteCmd b) :=
  of_word rfl rfl (show (0x01 &&& 0x1F : Nat) = 0x01 from rfl)

theorem decByteP0 (b : Byte) : Statement (.decByteP0 b) :=
  of_word rfl rfl (show (0x02 &&& 0x1F : Nat) = 0x02 from rfl)

theorem decByteP1 (b : Byte) : Statement (.decByteP1 b) :=
  of_word rfl rfl (show (0x03 &&& 0x1F : Nat) = 0x03 from rfl)

theorem decByteP2 (b : Byte) : Statement (.decByteP2 b) :=
  of_word rfl rfl (show (0x04 &&& 0x1F : Nat) = 0x04 from rfl)

theorem decByteP3 (b : Byte) : Statement (.decByteP3 b) :=
  of_word rfl rfl (show (0x05 &&& 0x1F : Nat) = 0x05 from rfl)

theorem decByteDevh (b : Byte) : Statement (.decByteDevh b) :=
  of_word rfl rfl (show (0x06 &&& 0x1F : Nat) = 0x06 from rfl)

theorem decByteDevl (b : Byte) : Statement (.decByteDevl b) :=
  of_word rfl rfl (show (0x07 &&& 0x1F : Nat) = 0x07 from rfl)

theorem decByteCsum (b : Byte) : Statement (.decByteCsum b) :=
  of_word rfl rfl (show (0x08 &&& 0x1F : Nat) = 0x08 from rfl)

theorem decByteTailNotlast (b : Byte) : Statement (.decByteTailNotlast b) :=
  of_word rfl rfl (show (0x09 &&& 0x1F : Nat) = 0x09 from rfl)

theorem decByteOver (b : Byte) : Statement (.decByteOver b) :=
  of_word rfl rfl (show (0x0A &&& 0x1F : Nat) = 0x0A from rfl)

theorem decByteTailLast (b : Byte) : Statement (.decByteTailLast b) :=
  of_word rfl rfl (show (0x19 &&& 0x1F : Nat) = 0x19 from rfl)

theorem decByteShortLast (i : BitVec 3) (b : Byte) : Statement (.decByteShortLast i b) :=
  of_word rfl rfl (shortLast_word i)

theorem decByteShort8Last (b : Byte) : Statement (.decByteShort8Last b) :=
  of_word rfl rfl (show (0x18 &&& 0x1F : Nat) = 0x18 from rfl)

theorem decByteOverLast (b : Byte) : Statement (.decByteOverLast b) :=
  of_word rfl rfl (show (0x1A &&& 0x1F : Nat) = 0x1A from rfl)

theorem csumClr (u : CsumUnit) : Statement (.csumClr u) := of_none rfl

theorem csumAdd (u : CsumUnit) (b : Byte) : Statement (.csumAdd u b) := of_none rfl

theorem csumCmp (u : CsumUnit) (c : Byte) : Statement (.csumCmp u c) := of_none rfl

end RowMatch

end Sys2Proof.Laws
end

