-- ==== Sys2Proof/Laws/Runs.lean ====
section
/-! SUPPORT. Runs: how `steps` composes, what an offer changes, one step of an endless run, and how a block splits at
its first byte. -/

namespace Sys2Proof.Machine

@[simp] theorem steps_zero (s : State) : steps 0 s = .next s := rfl

/-- A run whose first step goes on is the run of the rest. -/
theorem steps_succ_of_step {n : Nat} {s t : State} (h : step s = .next t) : steps (n + 1) s = steps n t := by
  simp [steps, h]

/-- A run of `m + n` steps is a run of `m` and then one of `n`. -/
theorem steps_add {m n : Nat} {s t : State} (h : steps m s = .next t) : steps (m + n) s = steps n t := by
  induction m generalizing s with
  | zero => cases h; rw [Nat.zero_add]
  | succ m ih =>
    rw [Nat.succ_add, Nat.succ_eq_add_one]
    rw [steps] at h ⊢
    split at h
    · exact ih h
    · cases h
    · cases h

/-- One line of the script, then the rest of the run. -/
theorem steps_line {n : Nat} {s t : State} {l : Line} {rest : List Line} (hs : s.env.script = l :: rest)
    (h : runLine l (s.withScript rest) = .next t) : steps (n + 1) s = steps n t :=
  steps_succ_of_step ((step_cons hs).trans h)

/-- The bytes that are open after several lines, line by line. -/
theorem openBlock_cons (bs : List Byte) (l : Line) (ls : List Line) :
    openBlock bs (l :: ls) = openBlock (openBlock bs [l]) ls := by
  rcases l with _ | e | bs'
  · rfl
  · rcases e with _ | _ | ⟨_, last⟩
    · rfl
    · rfl
    · cases last <;> rfl
  · cases bs' <;> rfl

/-! ### Endless runs -/

section Offer
variable (e : Option Line) (s : State)

@[simp] theorem offer_enc : (offer e s).enc = s.enc := rfl
@[simp] theorem offer_dec : (offer e s).dec = s.dec := rfl
@[simp] theorem offer_script : (offer e s).env.script = s.env.script ++ e.toList := rfl
@[simp] theorem offer_wired : (offer e s).env.wired = s.env.wired := rfl
@[simp] theorem offer_txLog : (offer e s).env.txLog = s.env.txLog := rfl
@[simp] theorem offer_resLog : (offer e s).env.resLog = s.env.resLog := rfl

end Offer

/-- A step of an endless run waits, where nothing is to come, or runs the line it takes. -/
theorem step_offer_cases {e : Option Line} {s t : State} (h : step (offer e s) = .next t) :
    ((offer e s).env.script.head? = none ∧ t = offer e s) ∨
    ∃ l rest, (offer e s).env.script = l :: rest ∧ runLine l (s.withScript rest) = .next t := by
  cases hs : (offer e s).env.script with
  | nil => rw [step_nil hs] at h; cases h; exact .inl ⟨rfl, rfl⟩
  | cons l rest => rw [step_cons hs] at h; exact .inr ⟨l, rest, rfl, h⟩

/-- Where a step goes on, the endless run goes on with it. -/
theorem runOf_succ_of_step {input : Nat → Option Line} {wired : Bool} {n : Nat} {t : State}
    (h : step (offer (input n) (runOf input wired n)) = .next t) : runOf input wired (n + 1) = t := by
  simp [runOf, h]

/-! ### Blocks -/

/-- A block of at least two bytes starts with a byte that is not its last. -/
theorem decBlock_cons (b b' : Byte) (bs : List Byte) (s : State) :
    decBlock (b :: b' :: bs) s = decBlock (b' :: bs) (decByte b false s) := rfl

end Sys2Proof.Machine
end

