-- ==== Sys2Proof/Tests/Slice0.lean ====
section
/-! SUPPORT. Tests on fixed values, expected results from spec/95_test_vectors.md and the examples of the rules, and for
each statement of Certificates/Slice0/Obligations.lean a concrete input that meets its hypotheses. -/

namespace Sys2Proof.Tests

open Sys2Proof Sys2Proof.Machine

/-! ### Helpers -/

/-- The next state, if there is one. -/
def answer : Result → Option State
  | .next t => some t
  | .fault _ | .refused _ => none

/-- The encoder in the frame of R149 at offset `k`, its accumulator `a`. -/
def encS (k : Idx) (a : Byte) : State :=
  { State.reset with enc :=
      { busy := true, idx := k, cmd := 0xB4#8, p := ⟨0x04#8, 0x01#8, 0#8, 0#8⟩, dev := 0xFFFF#16, acc := a } }

/-- The decoder in the block of R185 at offset `k`, with the fields that come after a small offset still 0. -/
def decS (k : Idx) (a : Byte) : State :=
  { State.reset with dec := { DecState.reset with idx := k, cmd := 0xC0#8, acc := a } }

/-- The decoder before the tenth byte of R185, with the checksum byte `c` received and the flag `f`. -/
def dec9 (f : Bool) (c : Byte) : State :=
  { State.reset with dec :=
      { idx := 9#4, ferr := f, cmd := 0xC0#8, p := ⟨0x3D#8, 0x02#8, 0x5A#8, 0x01#8⟩, dev := 0xCBC2#16, csrx := c,
        acc := 0x27#8 } }

/-- The overlong state (Z4 to Z6). -/
def dec10 : State := { State.reset with dec := { DecState.reset with idx := 10#4, ferr := true } }

/-- What ENC does in one operation: index, accumulator, events. -/
def encDoes (i : Instr) (s : State) : Option (Idx × Byte × List TxEvent) :=
  (answer (exec i s)).map fun t => (t.enc.idx, t.enc.acc, t.env.txLog)

/-- The decoder's registers after one operation. -/
def decDoes (i : Instr) (s : State) : Option DecState := (answer (exec i s)).map fun t => t.dec

/-- The results after one operation. -/
def resDoes (i : Instr) (s : State) : Option (List ResEvent) := (answer (exec i s)).map fun t => t.env.resLog

/-- The state after the line `l`, run as a step. -/
def stepOn (l : Line) (s : State) : Option State := answer (step (s.withScript (l :: s.env.script)))

/-- The running example's request (R131). -/
def reqE1 : EncReq := { cmd := 0xB4#8, plen := 2#8, pdata := ⟨0x04#8, 0x01#8, 0xBE#8, 0xEF#8⟩, dev := 0xFFFF#16 }

/-- DV1. -/
def dv1 : List Byte := [0xAA#8, 0xC0#8, 0xD4#8, 0x04#8, 0x3A#8, 0x0A#8, 0xA1#8, 0x60#8, 0x1D#8, 0xAB#8]

/-- The result FRAMING_ERROR (R176). -/
def ferrRes : ResEvent :=
  { status := .framingError, checksumOk := false, cmd := 0#8, p := ⟨0#8, 0#8, 0#8, 0#8⟩, dev := 0#16, csum := 0#8,
    computed := 0#8 }

/-! ### WellFormed: FRAME.ANY is not one of the listed kinds -/

theorem test_wf_any_cmd_out : (Instr.frameAny 0xB4#8 ⟨0#8, 0#8, 0#8, 0#8⟩ 0#16 0#8).wellFormed = false := by decide
theorem test_wf_any_sample : (Instr.frameAny 0xC0#8 ⟨0#8, 0#8, 0#8, 0#8⟩ 0#16 0#8).wellFormed = false := by decide
theorem test_wf_any_ack : (Instr.frameAny 0xC5#8 ⟨0#8, 0#8, 0#8, 0#8⟩ 0#16 0#8).wellFormed = false := by decide
theorem test_wf_any_other : (Instr.frameAny 0xC1#8 ⟨0#8, 0#8, 0#8, 0#8⟩ 0#16 0#8).wellFormed = true := by decide

/-! ### Decoding: words written out from R81, R84 and R96 -/

/-- E1, bit by bit as R81 draws it. -/
theorem test_decode_frame_cmd :
    decodeTableWord 80
      0b10101010101101000000010000000001000000000000000011111111111111110000001110101011 =
      some (.frameCmd ⟨0x04#8, 0x01#8, 0#8, 0#8⟩ 0xFFFF#16 0x03#8) := by decide
/-- E6. -/
theorem test_decode_frame_sample :
    decode (.block dv1) = .ok (.frameSample ⟨0xD4#8, 0x04#8, 0x3A#8, 0x0A#8⟩ 0xA160#16 0x1D#8) := by decide
/-- DV22. -/
theorem test_decode_frame_ack :
    decodeTableWord 80 0xAAC502010000CBC290AB =
      some (.frameAck ⟨0x02#8, 0x01#8, 0#8, 0#8⟩ 0xCBC2#16 0x90#8) := by decide
/-- DV31. -/
theorem test_decode_frame_any :
    decodeTableWord 80 0xAAFF102030001234A6AB =
      some (.frameAny 0xFF#8 ⟨0x10#8, 0x20#8, 0x30#8, 0#8⟩ 0x1234#16 0xA6#8) := by decide

theorem test_decode_events :
    decode .rst = .ok .reset ∧ decode (.encReq reqE1) = .ok (.encLoad reqE1) := by decide

theorem test_decode_enc_idx :
    decode (.tx 0b0000#4) = .ok .encEmitHead ∧ decode (.tx 0b0001#4) = .ok .encEmitCmd ∧
    decode (.tx 0b0010#4) = .ok .encEmitP0 ∧ decode (.tx 0b0011#4) = .ok .encEmitP1 ∧
    decode (.tx 0b0100#4) = .ok .encEmitP2 ∧ decode (.tx 0b0101#4) = .ok .encEmitP3 ∧
    decode (.tx 0b0110#4) = .ok .encEmitDevh ∧ decode (.tx 0b0111#4) = .ok .encEmitDevl ∧
    decode (.tx 0b1000#4) = .ok .encEmitCsum ∧ decode (.tx 0b1001#4) = .ok .encEmitTail := by decide

theorem test_decode_dec_notlast :
    decode (.rx 0b00000#5 7#8) = .ok (.decByteHead 7#8) ∧ decode (.rx 0b00001#5 7#8) = .ok (.decByteCmd 7#8) ∧
    decode (.rx 0b00010#5 7#8) = .ok (.decByteP0 7#8) ∧ decode (.rx 0b00011#5 7#8) = .ok (.decByteP1 7#8) ∧
    decode (.rx 0b00100#5 7#8) = .ok (.decByteP2 7#8) ∧ decode (.rx 0b00101#5 7#8) = .ok (.decByteP3 7#8) ∧
    decode (.rx 0b00110#5 7#8) = .ok (.decByteDevh 7#8) ∧ decode (.rx 0b00111#5 7#8) = .ok (.decByteDevl 7#8) ∧
    decode (.rx 0b01000#5 7#8) = .ok (.decByteCsum 7#8) ∧
    decode (.rx 0b01001#5 7#8) = .ok (.decByteTailNotlast 7#8) ∧
    decode (.rx 0b01010#5 7#8) = .ok (.decByteOver 7#8) := by decide

theorem test_decode_dec_last :
    decode (.rx 0b10000#5 7#8) = .ok (.decByteShortLast 0#3 7#8) ∧
    decode (.rx 0b10111#5 7#8) = .ok (.decByteShortLast 7#3 7#8) ∧
    decode (.rx 0b11000#5 7#8) = .ok (.decByteShort8Last 7#8) ∧
    decode (.rx 0b11001#5 7#8) = .ok (.decByteTailLast 7#8) ∧
    decode (.rx 0b11010#5 7#8) = .ok (.decByteOverLast 7#8) := by decide

/-- Words that no row lists are rejected, each by its name. -/
theorem test_decode_rejects :
    decode (.tx 10#4) = .error .noSuchEncIdx ∧ decode (.tx 15#4) = .error .noSuchEncIdx ∧
    decode (.rx 0b01011#5 0#8) = .error .noSuchDecIdx ∧ decode (.rx 0b11011#5 0#8) = .error .noSuchDecIdx ∧
    decode (.block []) = .error .wrongLength ∧ decode (.block (dv1.take 9)) = .error .wrongLength ∧
    decode (.block (dv1 ++ [0#8])) = .error .wrongLength ∧
    decode (.block (dv1.set 0 0xAB#8)) = .error .badMarker ∧
    decode (.block (dv1.set 9 0xAA#8)) = .error .badMarker := by decide

/-- The words of the table, by width. -/
theorem test_table_words :
    decodeTableWord 8 0x06 = some .encEmitDevh ∧ decodeTableWord 5 0x06 = some (.decByteDevh 0#8) ∧
    decodeTableWord 8 0x0A = some (.decByteOver 0#8) ∧ decodeTableWord 8 0x19 = some (.decByteTailLast 0#8) ∧
    decodeTableWord 0 0 = some .reset ∧ decodeTableWord 80 0 = none ∧ decodeTableWord 8 0x20 = none := by decide

/-! ### One operation at a time -/

/-- R113, K4, K5, K7, and R114. -/
theorem test_csum_sum :
    csumSum 0xFF#8 0xFF#8 = 0xFE#8 ∧ csumSum 0x80#8 0x80#8 = 0#8 ∧ csumSum 0x9A#8 0xCB#8 = 0x65#8 ∧
    csumMatch 0x27#8 0xA6#8 = false ∧ csumMatch 0#8 0#8 = true ∧ csumMatch 0#8 0x80#8 = false := by decide
theorem test_csum_clr : decDoes (.csumClr .dec) (decS 8#4 0x27#8) = some (decS 8#4 0#8).dec := by decide
theorem test_csum_clr_enc : answer (exec (.csumClr .enc) (encS 8#4 0x27#8)) = some (encS 8#4 0#8) := by decide
theorem test_csum_add : decDoes (.csumAdd .dec 0xCB#8) (decS 6#4 0x9A#8) = some (decS 6#4 0x65#8).dec := by decide
theorem test_csum_add_enc :
    answer (exec (.csumAdd .enc 0x01#8) (encS 6#4 0xFF#8)) = some (encS 6#4 0#8) := by decide
theorem test_csum_cmp :
    (answer (exec (.csumCmp .dec 0xA6#8) (decS 9#4 0x27#8))).map (fun t => (t.dec, t.env.cmp)) =
      some ((decS 9#4 0x27#8).dec, some false) := by decide
theorem test_csum_cmp_enc :
    (answer (exec (.csumCmp .enc 0x03#8) (encS 9#4 0x03#8))).map (fun t => t.env.cmp) = some (some true) := by decide

/-- Z2, Z3. -/
theorem test_reset :
    answer (exec .reset { encS 5#4 0x05#8 with dec := (decS 5#4 0x05#8).dec }) = some State.reset := by decide
/-- E21: the bytes at and above `plen` are not read. -/
theorem test_enc_load : answer (exec (.encLoad reqE1) State.reset) = some (encS 0#4 0#8) := by decide
/-- E23. -/
theorem test_enc_load_busy : answer (exec (.encLoad reqE1) (encS 3#4 0x04#8)) = some (encS 3#4 0x04#8) := by decide

/-- R149: the frame's bytes and accumulator, step by step. -/
theorem test_emit_head : encDoes .encEmitHead (encS 0#4 0#8) = some (1#4, 0#8, [⟨0xAA#8, false⟩]) := by decide
theorem test_emit_cmd : encDoes .encEmitCmd (encS 1#4 0#8) = some (2#4, 0#8, [⟨0xB4#8, false⟩]) := by decide
theorem test_emit_p0 : encDoes .encEmitP0 (encS 2#4 0#8) = some (3#4, 4#8, [⟨0x04#8, false⟩]) := by decide
theorem test_emit_p1 : encDoes .encEmitP1 (encS 3#4 4#8) = some (4#4, 5#8, [⟨0x01#8, false⟩]) := by decide
theorem test_emit_p2 : encDoes .encEmitP2 (encS 4#4 5#8) = some (5#4, 5#8, [⟨0#8, false⟩]) := by decide
theorem test_emit_p3 : encDoes .encEmitP3 (encS 5#4 5#8) = some (6#4, 5#8, [⟨0#8, false⟩]) := by decide
theorem test_emit_devh : encDoes .encEmitDevh (encS 6#4 5#8) = some (7#4, 4#8, [⟨0xFF#8, false⟩]) := by decide
theorem test_emit_devl : encDoes .encEmitDevl (encS 7#4 4#8) = some (8#4, 3#8, [⟨0xFF#8, false⟩]) := by decide
theorem test_emit_csum : encDoes .encEmitCsum (encS 8#4 3#8) = some (9#4, 3#8, [⟨0x03#8, false⟩]) := by decide
theorem test_emit_tail :
    (answer (exec .encEmitTail (encS 9#4 3#8))).map (fun t => (t.enc, t.env.txLog)) =
      some (EncState.reset, [⟨0xAB#8, true⟩]) := by decide
/-- R64: the high byte of `device_id` is the one at offset 6. -/
theorem test_emit_dev_order :
    devHigh 0xCBC2#16 = 0xCB#8 ∧ devLow 0xCBC2#16 = 0xC2#8 ∧ devOf 0xCB#8 0xC2#8 = 0xCBC2#16 := by decide

/-- R162, R185. -/
theorem test_byte_head :
    decDoes (.decByteHead 0xAA#8) State.reset = some { DecState.reset with idx := 1#4 } := by decide
/-- DV13. -/
theorem test_byte_head_wrong :
    decDoes (.decByteHead 0xAB#8) State.reset = some { DecState.reset with idx := 1#4, ferr := true } := by decide
theorem test_byte_cmd :
    decDoes (.decByteCmd 0xC0#8) { State.reset with dec := { DecState.reset with idx := 1#4 } } =
      some (decS 2#4 0#8).dec := by decide
theorem test_byte_p0 :
    decDoes (.decByteP0 0x3D#8) (decS 2#4 0#8) =
      some { (decS 3#4 0x3D#8).dec with p := ⟨0x3D#8, 0#8, 0#8, 0#8⟩ } := by decide
theorem test_byte_p1 :
    decDoes (.decByteP1 0x02#8) (decS 3#4 0x3D#8) =
      some { (decS 4#4 0x3F#8).dec with p := ⟨0#8, 0x02#8, 0#8, 0#8⟩ } := by decide
theorem test_byte_p2 :
    decDoes (.decByteP2 0x5A#8) (decS 4#4 0x3F#8) =
      some { (decS 5#4 0x99#8).dec with p := ⟨0#8, 0#8, 0x5A#8, 0#8⟩ } := by decide
theorem test_byte_p3 :
    decDoes (.decByteP3 0x01#8) (decS 5#4 0x99#8) =
      some { (decS 6#4 0x9A#8).dec with p := ⟨0#8, 0#8, 0#8, 0x01#8⟩ } := by decide
theorem test_byte_devh :
    decDoes (.decByteDevh 0xCB#8) (decS 6#4 0x9A#8) =
      some { (decS 7#4 0x65#8).dec with dev := 0xCB00#16 } := by decide
theorem test_byte_devl :
    decDoes (.decByteDevl 0xC2#8)
        { State.reset with dec := { (decS 7#4 0x65#8).dec with dev := 0xCB00#16 } } =
      some { (decS 8#4 0x27#8).dec with dev := 0xCBC2#16 } := by decide
theorem test_byte_csum :
    decDoes (.decByteCsum 0xA6#8) (decS 8#4 0x27#8) =
      some { (decS 9#4 0x27#8).dec with csrx := 0xA6#8 } := by decide
/-- P3, block 2: the tail's value does not rescue the block. -/
theorem test_byte_tail_notlast :
    decDoes (.decByteTailNotlast 0xAB#8) (dec9 false 0x27#8) =
      some { (dec9 true 0x27#8).dec with idx := 10#4 } := by decide
/-- Z5. -/
theorem test_byte_over : answer (exec (.decByteOver 0x77#8) dec10) = some dec10 := by decide
/-- S1, DV29. -/
theorem test_byte_tail_last_checksum :
    resDoes (.decByteTailLast 0xAB#8) (dec9 false 0xA6#8) = some
      [{ status := .checksumError, checksumOk := false, cmd := 0xC0#8, p := ⟨0x3D#8, 0x02#8, 0x5A#8, 0x01#8⟩,
         dev := 0xCBC2#16, csum := 0xA6#8, computed := 0x27#8 }] := by decide
/-- S1c. -/
theorem test_byte_tail_last_ok :
    resDoes (.decByteTailLast 0xAB#8) (dec9 false 0x27#8) = some
      [{ status := .ok, checksumOk := true, cmd := 0xC0#8, p := ⟨0x3D#8, 0x02#8, 0x5A#8, 0x01#8⟩,
         dev := 0xCBC2#16, csum := 0x27#8, computed := 0x27#8 }] := by decide
/-- DV18. -/
theorem test_byte_short_last :
    (answer (exec (.decByteShortLast 0#3 0xAA#8) State.reset)).map (fun t => (t.dec, t.env.resLog)) =
      some (DecState.reset, [ferrRes]) := by decide
/-- P3, block 1. -/
theorem test_byte_short8_last :
    (answer (exec (.decByteShort8Last 0x90#8) (decS 8#4 0x90#8))).map (fun t => (t.dec, t.env.resLog)) =
      some (DecState.reset, [ferrRes]) := by decide
/-- Z6. -/
theorem test_byte_over_last :
    (answer (exec (.decByteOverLast 0x77#8) dec10)).map (fun t => (t.dec, t.env.resLog)) =
      some (DecState.reset, [ferrRes]) := by decide

/-- The frame kinds: E1, DV1, DV22, DV31. -/
theorem test_frame_cmd :
    resDoes (.frameCmd ⟨0x04#8, 0x01#8, 0#8, 0#8⟩ 0xFFFF#16 0x03#8) State.reset = some
      [{ status := .ok, checksumOk := true, cmd := 0xB4#8, p := ⟨0x04#8, 0x01#8, 0#8, 0#8⟩,
         dev := 0xFFFF#16, csum := 0x03#8, computed := 0x03#8 }] := by decide
theorem test_frame_sample :
    resDoes (.frameSample ⟨0xD4#8, 0x04#8, 0x3A#8, 0x0A#8⟩ 0xA160#16 0x1C#8) State.reset = some
      [{ status := .checksumError, checksumOk := false, cmd := 0xC0#8, p := ⟨0xD4#8, 0x04#8, 0x3A#8, 0x0A#8⟩,
         dev := 0xA160#16, csum := 0x1C#8, computed := 0x1D#8 }] := by decide
theorem test_frame_ack :
    resDoes (.frameAck ⟨0x02#8, 0x01#8, 0#8, 0#8⟩ 0xCBC2#16 0x90#8) State.reset = some
      [{ status := .ok, checksumOk := true, cmd := 0xC5#8, p := ⟨0x02#8, 0x01#8, 0#8, 0#8⟩,
         dev := 0xCBC2#16, csum := 0x90#8, computed := 0x90#8 }] := by decide
theorem test_frame_any :
    resDoes (.frameAny 0xFF#8 ⟨0x10#8, 0x20#8, 0x30#8, 0#8⟩ 0x1234#16 0xA6#8) State.reset = some
      [{ status := .ok, checksumOk := true, cmd := 0xFF#8, p := ⟨0x10#8, 0x20#8, 0x30#8, 0#8⟩,
         dev := 0x1234#16, csum := 0xA6#8, computed := 0xA6#8 }] := by decide

/-- R200: the codes. -/
theorem test_status_codes :
    statusCode .ok = 0#2 ∧ statusCode .checksumError = 1#2 ∧ statusCode .framingError = 2#2 := by decide

/-! ### Lines and the function level -/

/-- E24, Z7, and the lines that change nothing. -/
theorem test_lines :
    stepOn (.port .tx) State.reset = some State.reset ∧
    stepOn (.rst [.encReq reqE1, .tx, .rx 0xAA#8 true]) (dec9 false 0x27#8) = some State.reset ∧
    stepOn (.block []) dec10 = some dec10 ∧
    answer (step State.reset) = some State.reset := by decide
/-- The one stop of a step, at an offset that does not exist (log entry 7). -/
theorem test_step_stop : answer (step ((encS 10#4 0#8).withScript [.port .tx])) = none := by decide
/-- DV32, DV24, DV16, DV26, DV12. -/
theorem test_function_level :
    frameDecode [] = (.framingError, none) ∧
    (frameDecode [0xC0#8, 0xD4#8, 0x04#8, 0x3A#8, 0x0A#8, 0xA1#8, 0x60#8, 0x1D#8, 0xAB#8, 0xAB#8]).1 =
      .framingError ∧
    (frameDecode [0x55#8, 0xC0#8, 0xD4#8, 0x04#8, 0x3A#8, 0x0A#8, 0xA1#8, 0x60#8, 0x00#8, 0xAB#8]).1 =
      .framingError ∧
    (frameDecode ([0xAA#8] ++ List.replicate 8 0xAA#8 ++ [0xAB#8])).1 = .checksumError ∧
    checksum (List.replicate 6 0xAA#8) = 0xFC#8 ∧
    (frameDecode [0xAA#8, 0xC0#8, 0xD4#8, 0x04#8, 0x3A#8, 0x0A#8, 0x60#8, 0xA1#8, 0x1D#8, 0xAB#8]).1 = .ok := by decide
/-- E1, E5, E10. -/
theorem test_frame_encode :
    frameEncode 0xB4#8 [0x04#8, 0x01#8] 0xFFFF#16 =
      [0xAA#8, 0xB4#8, 0x04#8, 0x01#8, 0#8, 0#8, 0xFF#8, 0xFF#8, 0x03#8, 0xAB#8] ∧
    frameEncode 0xB4#8 [1#8, 2#8, 3#8, 4#8, 5#8, 6#8, 7#8, 8#8, 9#8, 10#8, 11#8, 12#8] 0xA160#16 =
      [0xAA#8, 0xB4#8, 1#8, 2#8, 3#8, 4#8, 0xA1#8, 0x60#8, 0x0B#8, 0xAB#8] ∧
    frameEncode 0xFF#8 [0x10#8, 0x20#8, 0x30#8] 0x1234#16 =
      [0xAA#8, 0xFF#8, 0x10#8, 0x20#8, 0x30#8, 0#8, 0x12#8, 0x34#8, 0xA6#8, 0xAB#8] := by decide
/-- The word placed is the one the next step runs, right after reset. -/
theorem test_fetch :
    (answer (step (State.reset.withFetchWord 80 0xAAC502010000CBC290AB))).map (fun t => t.env.resLog) =
      resDoes (.frameAck ⟨0x02#8, 0x01#8, 0#8, 0#8⟩ 0xCBC2#16 0x90#8) State.reset ∧
    (answer (step (State.reset.withFetchWord 8 0x09))).map (fun t => t.env.txLog) = some [⟨0xAB#8, true⟩] ∧
    (answer (step (State.reset.withFetchWord 8 0x1A))).map (fun t => t.env.resLog) = some [ferrRes] ∧
    answer (step (State.reset.withFetchWord 0 0)) = some State.reset := by decide

/-! ### The statements' hypotheses are met -/

/-- The encoder of R149 meets R45 at every offset. -/
theorem encS_inv :
    EncInv (encS 0#4 0#8).enc ∧ EncInv (encS 2#4 0#8).enc ∧ EncInv (encS 3#4 4#8).enc ∧ EncInv (encS 8#4 3#8).enc ∧
    EncInv (encS 9#4 3#8).enc ∧ EncInv EncState.reset :=
  ⟨⟨by decide, by decide, by decide⟩, ⟨by decide, by decide, by decide⟩, ⟨by decide, by decide, by decide⟩,
   ⟨by decide, by decide, by decide⟩, ⟨by decide, by decide, by decide⟩, ⟨by decide, by decide, by decide⟩⟩

/-- The decoder of R185 before its tenth byte, the overlong one and the idle one meet R46. -/
theorem dec9_inv : DecInv (dec9 false 0xA6#8).dec :=
  ⟨[0xAA#8, 0xC0#8, 0x3D#8, 0x02#8, 0x5A#8, 0x01#8, 0xCB#8, 0xC2#8, 0xA6#8],
   by decide, by decide, by decide, by decide, by decide, by decide, by decide⟩
theorem dec10_inv : DecInv dec10.dec :=
  ⟨List.replicate 11 0#8, by decide, by decide, by decide, by decide, by decide, by decide, by decide⟩
theorem decReset_inv : DecInv DecState.reset :=
  ⟨[], by decide, by decide, by decide, by decide, by decide, by decide, by decide⟩

/-- Both agents in mid-frame, with the three bytes sent in the trace and one line to come. -/
def midway (l : List Line) : State :=
  { enc := (encS 3#4 4#8).enc, dec := (dec9 false 0xA6#8).dec,
    env := { script := l, wired := false, txLog := [⟨0xAA#8, false⟩, ⟨0xB4#8, false⟩, ⟨0x04#8, false⟩],
             resLog := [ferrRes], cmp := none } }

theorem midway_inv (l : List Line) : RegInv (midway l) ∧ TxInv (midway l) ∧ ResInv (midway l) :=
  ⟨⟨encS_inv.2.2.1, dec9_inv⟩, fun _ => ⟨[], by simp only [midway]; decide⟩, by simp only [ResInv, midway]; decide⟩

theorem witness_ResetWritesEveryRegister : ∃ s t, exec .reset s = .next t := ⟨encS 3#4 0#8, _, rfl⟩
theorem witness_RstWinsOverCoincidingEvents : ∃ s es rest, (s : State).env.script = Line.rst es :: rest :=
  ⟨midway [.rst [.tx]], [.tx], [], rfl⟩
theorem witness_EncLoadTakesTheRequest : State.reset.enc.busy = false := rfl
theorem witness_UnusedRequestFieldsAreIgnored : ∃ r q : EncReq, r ≠ q ∧ r.cmd = q.cmd ∧ r.dev = q.dev ∧
    min r.plen.toNat 4 = min q.plen.toNat 4 ∧
    ∀ i, i < min r.plen.toNat 4 → (payloadBytes r.pdata)[i]? = (payloadBytes q.pdata)[i]? :=
  ⟨reqE1, { reqE1 with pdata := ⟨0x04#8, 0x01#8, 0#8, 0#8⟩ }, by decide, rfl, rfl, rfl, by decide⟩
theorem witness_UnusedRequestFieldsAreIgnored_long : ∃ r q : EncReq, r ≠ q ∧ r.cmd = q.cmd ∧ r.dev = q.dev ∧
    min r.plen.toNat 4 = min q.plen.toNat 4 ∧
    ∀ i, i < min r.plen.toNat 4 → (payloadBytes r.pdata)[i]? = (payloadBytes q.pdata)[i]? :=
  ⟨{ reqE1 with plen := 4#8 }, { reqE1 with plen := 255#8 }, by decide, rfl, rfl, rfl, by decide⟩
theorem witness_RequestWhileBusyIsNotAccepted : (midway [.port (.encReq reqE1)]).enc.busy = true ∧
    (midway [.port (.encReq reqE1)]).env.script = [.port (.encReq reqE1)] := ⟨rfl, rfl⟩
theorem witness_EmitHeadAndCommand :
    ((encS 0#4 0#8).enc.busy = true ∧ (encS 0#4 0#8).enc.idx = 0#4 ∧ EncInv (encS 0#4 0#8).enc) ∧
    (encS 1#4 0#8).enc.busy = true ∧ (encS 1#4 0#8).enc.idx = 1#4 := ⟨⟨rfl, rfl, encS_inv.1⟩, rfl, rfl⟩
theorem witness_EmitSummedBytes : ∀ k : Idx, 2 ≤ k.toNat → k.toNat ≤ 7 →
    (encS k 0#8).enc.busy = true ∧ (encS k 0#8).enc.idx = k := fun _ _ _ => ⟨rfl, rfl⟩
theorem witness_EmitChecksumByte :
    (encS 8#4 3#8).enc.busy = true ∧ (encS 8#4 3#8).enc.idx = 8#4 ∧ EncInv (encS 8#4 3#8).enc :=
  ⟨rfl, rfl, encS_inv.2.2.2.1⟩
theorem witness_EmitTailClearsTheEncoder :
    ((encS 9#4 3#8).enc.busy = true ∧ (encS 9#4 3#8).enc.idx = 9#4) ∧
    ∃ t, exec .encEmitTail (encS 9#4 3#8) = .next t ∧ t.env.txLog = (encS 9#4 3#8).env.txLog ++ [⟨0xAB#8, true⟩] :=
  ⟨⟨rfl, rfl⟩, _, rfl, rfl⟩
theorem witness_EmitStepIsTheCommonPart :
    ((startState [.port .tx] false).env.script = [.port .tx] ∧ (startState [.port .tx] false).enc.busy = false) ∧
    ∀ k : Idx, k.toNat ≤ 9 → ((encS k 0#8).withScript [.port .tx]).env.script = [.port .tx] ∧
      ((encS k 0#8).withScript [.port .tx]).enc.busy = true := ⟨⟨rfl, rfl⟩, fun _ _ => ⟨rfl, rfl⟩⟩
theorem witness_EncoderImageByOffset : (encS 8#4 3#8).enc.busy = true ∧ 9 < (10#4 : Idx).toNat ∧
    9 < (15#4 : Idx).toNat := by decide
/-- Every kind of line, on a busy encoder and on an idle one, goes on. -/
theorem witness_EncoderNextIndex :
    (∀ l ∈ [Line.rst [], .port (.encReq reqE1), .port .tx, .port (.rx 0#8 true), .block dv1],
      (stepOn l (encS 0#4 0#8)).isSome = true ∧ (stepOn l (encS 9#4 3#8)).isSome = true ∧
      (stepOn l State.reset).isSome = true) := by decide
theorem witness_ByteHeadIsCompared : State.reset.dec.idx = 0#4 ∧ State.reset.dec.ferr = false := ⟨rfl, rfl⟩
theorem witness_ByteCommandAndChecksumAreStored : (decS 1#4 0#8).dec.idx = 1#4 ∧ (decS 8#4 0#8).dec.idx = 8#4 :=
  ⟨rfl, rfl⟩
theorem witness_ByteFieldsAreStoredAndSummed : ∀ k : Idx, 2 ≤ k.toNat → k.toNat ≤ 7 → (decS k 0#8).dec.idx = k :=
  fun _ _ _ => rfl
theorem witness_OverlongBlockIsDiscarded :
    (dec9 false 0#8).dec.idx = 9#4 ∧ dec10.dec.idx = 10#4 ∧ dec10.dec.ferr = true := ⟨rfl, rfl, rfl⟩
theorem witness_TailLastReportsTheBlock :
    (dec9 false 0x27#8).dec.idx = 9#4 ∧ (dec9 false 0x27#8).dec.ferr = false ∧ (dec9 true 0x27#8).dec.ferr = true ∧
    (dec9 false 0x27#8).dec.acc = (dec9 false 0x27#8).dec.csrx ∧
    (dec9 false 0xA6#8).dec.acc ≠ (dec9 false 0xA6#8).dec.csrx := by decide
theorem witness_WrongLengthIsAFramingError :
    State.reset.dec.idx = 0#1 ++ (0#3 : BitVec 3) ∧ (decS 7#4 0#8).dec.idx = 0#1 ++ (7#3 : BitVec 3) ∧
    (decS 8#4 0#8).dec.idx = 8#4 ∧ dec10.dec.idx = 10#4 := by decide
theorem witness_ByteStepIsTheCommonPart :
    (midway [.port (.rx 0#8 false)]).env.script = [.port (.rx 0#8 false)] ∧
    (midway [.port (.rx 0xAB#8 true)]).env.script = [.port (.rx 0xAB#8 true)] := ⟨rfl, rfl⟩
theorem witness_DecoderNextIndex :
    (∀ l ∈ [Line.rst [], .port (.encReq reqE1), .port .tx, .port (.rx 0#8 true), .port (.rx 0#8 false), .block dv1,
        .block []],
      (stepOn l State.reset).isSome = true ∧ (stepOn l (dec9 false 0#8)).isSome = true ∧
      (stepOn l dec10).isSome = true) ∧
    State.reset.dec.idx.toNat ≤ 10 ∧ (dec9 false 0#8).dec.idx.toNat ≤ 10 ∧ dec10.dec.idx.toNat ≤ 10 := by decide
theorem witness_OneResultForEachBlockEnd :
    (∀ l ∈ [Line.port (.rx 0#8 true), .block dv1, .port (.rx 0#8 false), .port .tx],
      (stepOn l (midway [])).isSome = true) := by decide
theorem witness_OverlongBlockNeverEndsByItself : ∃ bs : List Byte, bs ≠ [] ∧ dec10.dec.idx = 10#4 ∧
    dec10.dec.ferr = true ∧ (dec10.withScript (bs.map (fun b => .port (.rx b false)))).env.script =
      bs.map (fun b => .port (.rx b false)) ++ [] := ⟨[0x77#8, 0xAB#8], by decide, rfl, rfl, rfl⟩
theorem witness_FrameKindsGiveTheResultOfDecode : (encS 3#4 4#8).dec = DecState.reset := rfl
theorem witness_StepRunsTheSelectedInstruction : ∃ s l rest c i, (s : State).env.script = l :: rest ∧
    select l (s.withScript rest) = some c ∧ decode c = .ok i :=
  ⟨midway [.port .tx], .port .tx, [], .tx 3#4, .encEmitP1, rfl, rfl, rfl⟩
theorem witness_EventsSelectByPortAndIndex : State.reset.enc.busy = false ∧ (midway []).enc.busy = true := ⟨rfl, rfl⟩
theorem witness_PlacedCodeIsRunNext : decode (.rx 0b10111#5 1#8) = .ok (.decByteShortLast 7#3 1#8) ∧
    decode (.block dv1) = .ok (.frameSample ⟨0xD4#8, 0x04#8, 0x3A#8, 0x0A#8⟩ 0xA160#16 0x1D#8) := by decide
theorem witness_WaitingChangesNothing : (midway []).env.script = [] := rfl
theorem witness_EncodeOfDecodeGivesTheCode : decode (.tx 9#4) = .ok .encEmitTail := rfl
theorem witness_DecodeOfEncodeGivesTheInstruction :
    (Instr.frameAny 0xC1#8 ⟨0#8, 0#8, 0#8, 0#8⟩ 0#16 0#8).wellFormed = true ∧
    encode (.frameAny 0xC1#8 ⟨0#8, 0#8, 0#8, 0#8⟩ 0#16 0#8) =
      some (.block [0xAA#8, 0xC1#8, 0#8, 0#8, 0#8, 0#8, 0#8, 0#8, 0#8, 0xAB#8]) ∧
    (Instr.csumClr .enc).wellFormed = true ∧ encode (.csumClr .enc) = none := by decide
theorem witness_ChecksumIsTheSumModulo256 : [1#8, 2#8].Perm ([2#8, 1#8] : List Byte) := by decide
theorem witness_SingleByteChangeIsReported : wellFormedFrame dv1 = true ∧ dv1[2]? ≠ some 0xD5#8 ∧
    dv1[8]? ≠ some 0x1C#8 := by decide
theorem witness_UndetectedChanges :
    wellFormedFrame [0xAA#8, 0xC0#8, 0xD4#8, 0x04#8, 0x3A#8, 0x0A#8, 0xA1#8, 0x60#8, 0x1D#8, 0xAB#8] = true ∧
    ((0xD5#8 : Byte).toNat + (0x04#8 : Byte).toNat + (0x3A#8 : Byte).toNat + (0x09#8 : Byte).toNat +
      (0xA1#8 : Byte).toNat + (0x60#8 : Byte).toNat) % 256 =
    ((0xD4#8 : Byte).toNat + (0x04#8 : Byte).toNat + (0x3A#8 : Byte).toNat + (0x0A#8 : Byte).toNat +
      (0xA1#8 : Byte).toNat + (0x60#8 : Byte).toNat) % 256 ∧
    [0x04#8, 0xD4#8, 0x3A#8, 0x0A#8, 0xA1#8, 0x60#8].Perm
      ([0xD4#8, 0x04#8, 0x3A#8, 0x0A#8, 0xA1#8, 0x60#8] : List Byte) := by decide
theorem witness_EncodeProperties : ∃ s : List Byte, s.length = 4 ∧
    frameEncode 0xB4#8 s 0#16 = frameEncode 0xB4#8 s 0#16 := ⟨[1#8, 2#8, 3#8, 4#8], rfl, rfl⟩
theorem witness_StepKeepsRegisterInvariants : RegInv (midway [.port (.rx 0xAB#8 true)]) ∧
    ∃ t, step (midway [.port (.rx 0xAB#8 true)]) = .next t := ⟨(midway_inv _).1, _, rfl⟩
theorem witness_StepKeepsTraceInvariants : RegInv (midway [.port .tx]) ∧ TxInv (midway [.port .tx]) ∧
    ResInv (midway [.port .tx]) ∧ ∃ t, step (midway [.port .tx]) = .next t :=
  ⟨(midway_inv _).1, (midway_inv _).2.1, (midway_inv _).2.2, _, rfl⟩
theorem witness_StepNeverStops : RegInv (midway [.port .tx]) := (midway_inv _).1
/-- A busy encoder and an idle one are both reached. -/
theorem witness_ReachableEncoderMeetsR45 :
    (∃ t, steps 2 (startState (encodeLines reqE1) false) = .next t ∧ t.enc.busy = true) ∧
    ∃ t, steps 0 (startState [] true) = .next t ∧ t.enc.busy = false := ⟨⟨_, rfl, rfl⟩, _, rfl, rfl⟩
/-- Each kind of line that the open block depends on, from the ninth byte. -/
theorem witness_StepKeepsTheOpenBlock : ∃ bs, DecHolds bs (midway []).dec ∧
    ∀ l ∈ [Line.port (.rx 0xAB#8 true), .port (.rx 0xAB#8 false), .block dv1, .rst [], .port .tx],
      ∃ t, (midway [l]).env.script = [l] ∧ step (midway [l]) = .next t :=
  ⟨[0xAA#8, 0xC0#8, 0x3D#8, 0x02#8, 0x5A#8, 0x01#8, 0xCB#8, 0xC2#8, 0xA6#8],
   ⟨by decide, by decide, by decide, by decide, by decide, by decide, by decide⟩, by
    intro l hl
    simp only [List.mem_cons, List.not_mem_nil, or_false] at hl
    rcases hl with rfl | rfl | rfl | rfl | rfl <;> exact ⟨_, rfl, rfl⟩⟩
/-- A run whose block is still open, wired, with the byte that came back, and an unwired one. -/
theorem witness_ReachableDecoderHoldsItsBlock :
    (∃ t, steps 3 (startState (encodeLines reqE1) true) = .next t ∧
      takenLines 3 (startState (encodeLines reqE1) true) =
        [.port (.encReq reqE1), .port .tx, .port (.rx 0xAA#8 false)]) ∧
    ∃ t, steps 2 (startState ([.port (.rx 0xAA#8 false), .port (.rx 0xC0#8 false)] ++ [.port .tx]) false) = .next t ∧
      openBlock [] [.port (.rx 0xAA#8 false), .port (.rx 0xC0#8 false)] = [0xAA#8, 0xC0#8] :=
  ⟨⟨_, rfl, rfl⟩, _, rfl, rfl⟩
theorem witness_QuiescentBlockIsReset : RegInv State.reset ∧ quiescent State.reset = true :=
  ⟨⟨encS_inv.2.2.2.2.2, decReset_inv⟩, rfl⟩
theorem witness_AgentsShareNoState : encOp .encEmitHead = true ∧ decOp (.decByteHead 0#8) = true := ⟨rfl, rfl⟩
theorem witness_AgentStepsCommute : encOp (.encLoad reqE1) = true ∧ decOp (.decByteTailLast 0xAB#8) = true :=
  ⟨rfl, rfl⟩
theorem witness_EncoderIgnoresDecoderLines : EncInv (midway []).enc ∧ (midway []).env.wired = false :=
  ⟨encS_inv.2.2.1, rfl⟩
theorem witness_DecoderIgnoresEncoderLines : EncInv EncState.reset ∧ State.reset.env.wired = false :=
  ⟨encS_inv.2.2.2.2.2, rfl⟩
/-- The ten emissions of a request, with a byte for the decoder in between. -/
theorem witness_EncodeLinesEmitTheFrame : ∃ (lines rest : List Line) (s : State),
    s.enc.busy = false ∧ s.env.wired = false ∧ s.env.script = lines ++ rest ∧
    (∀ l ∈ lines, rstLine l = false) ∧ lines.filter encLine = encodeLines reqE1 ∧ lines ≠ encodeLines reqE1 :=
  ⟨.port (.rx 0xAA#8 false) :: encodeLines reqE1, [.rst []],
   startState (.port (.rx 0xAA#8 false) :: encodeLines reqE1 ++ [.rst []]) false, rfl, rfl, rfl, by decide, by decide,
   by decide⟩
theorem witness_EncodeLinesEmitTheFrame_payload :
    ∀ i, i < min ([0x04#8, 0x01#8] : List Byte).length 4 →
      (payloadBytes ⟨0x04#8, 0x01#8, 0xBE#8, 0xEF#8⟩)[i]? = ([0x04#8, 0x01#8] : List Byte)[i]? := by decide
theorem witness_DecodeLinesReportTheBlock : ∃ (lines rest : List Line) (s : State),
    RegInv s ∧ s.dec.idx = 0#4 ∧ s.env.wired = false ∧ s.env.script = lines ++ rest ∧
    (∀ l ∈ lines, rstLine l = false) ∧ lines.filter decLine = decodeLines dv1 ∧ lines ≠ decodeLines dv1 :=
  ⟨.port (.encReq reqE1) :: decodeLines dv1, [.rst []],
   startState (.port (.encReq reqE1) :: decodeLines dv1 ++ [.rst []]) false, ⟨encS_inv.2.2.2.2.2, decReset_inv⟩, rfl,
   rfl, rfl, by decide, by decide, by decide⟩
theorem witness_LoopbackReturnsTheRequest : RegInv (startState (encodeLines reqE1) true) ∧
    quiescent (startState (encodeLines reqE1) true) = true ∧ (startState (encodeLines reqE1) true).env.wired = true ∧
    (startState (encodeLines reqE1) true).env.script = encodeLines reqE1 ++ [] :=
  ⟨⟨encS_inv.2.2.2.2.2, decReset_inv⟩, rfl, rfl, rfl⟩
theorem witness_BlockLineEqualsItsByteLines : dv1 ≠ [] := by decide

/-! ### An endless run with a fair sink -/

/-- A request, then a sink that always takes a byte. -/
def fairInput (n : Nat) : Option Line := if n = 0 then some (.port (.encReq reqE1)) else some (.port .tx)

/-- The run under `fairInput`, unwired. -/
def fairRun : Nat → State := runOf fairInput false

/-- After the eleven steps of ENCODE the block is idle and stays as it is. -/
theorem fairRun_settles (k : Nat) : fairRun (11 + k) = fairRun 11 := by
  induction k with
  | zero => rfl
  | succ k ih =>
    have h : fairInput (11 + k) = some (.port .tx) := if_neg (by omega)
    have hs : step (offer (fairInput (11 + k)) (fairRun (11 + k))) = .next (fairRun 11) := by rw [h, ih]; rfl
    exact runOf_succ_of_step hs

theorem fairRun_isRun : Run fairInput false fairRun := by
  refine ⟨rfl, fun n => ?_⟩
  by_cases h : n < 11
  · interval_cases n <;> rfl
  · obtain ⟨k, rfl⟩ := Nat.exists_eq_add_of_le (Nat.le_of_not_lt h)
    have hi : fairInput (11 + k) = some (.port .tx) := if_neg (by omega)
    have e : fairRun (11 + k + 1) = fairRun 11 := fairRun_settles (k + 1)
    rw [e, fairRun_settles, hi]
    rfl

/-- The `tx` handshake is not enabled for ever, so its fairness holds. -/
theorem fairRun_isFair : TxWeaklyFair fairInput fairRun := by
  intro n h
  have h1 : encBusy (fairRun 11) = true := by
    have := h (11 + n) (by omega)
    rwa [fairRun_settles] at this
  exact absurd h1 (by decide)

theorem witness_FairSinkCompletesEveryRequest : Run fairInput false fairRun ∧ TxWeaklyFair fairInput fairRun ∧
    takenAt fairInput fairRun 0 = some (.port (.encReq reqE1)) ∧ encBusy (fairRun 0) = false ∧
    ∀ j, j < 10 → ∀ es, takenAt fairInput fairRun (1 + j) ≠ some (.rst es) := by
  refine ⟨fairRun_isRun, fairRun_isFair, rfl, rfl, fun j hj es => ?_⟩
  have e : takenAt fairInput fairRun (1 + j) = some (.port .tx) := by interval_cases j <;> rfl
  rw [e]
  exact fun h => nomatch h
theorem witness_EveryInputHasOneEndlessRun : ∃ r, Run fairInput false r := ⟨fairRun, fairRun_isRun⟩
theorem witness_EndlessRunReportsAtBlockEnds : ∃ input r, Run input false r := ⟨fairInput, fairRun, fairRun_isRun⟩

end Sys2Proof.Tests
end

section
/-! The family of spec/00_scope.md: one step is the operation that the next event selects. -/

namespace Sys2Proof.Machine

/-- R96: a line whose selected code decodes runs the instruction of that row. -/
theorem runLine_of_select_of_decode {l : Line} {s : State} {c : Code} {i : Instr}
    (hsel : select l s = some c) (hdec : decode c = .ok i) : runLine l s = exec i s := by
  simp only [runLine, hsel, hdec]

/-- Settles O28: the step is the line at the head of the script, and that line runs what it selects. -/
theorem stepRunsTheSelectedInstruction : Obligations.StepRunsTheSelectedInstruction := by
  intro s l rest c i hscript hsel hdec
  calc step s = runLine l (s.withScript rest) := step_cons hscript
    _ = exec i (s.withScript rest) := runLine_of_select_of_decode hsel hdec

end Sys2Proof.Machine
end

section
/-! The family of spec/10_state.md, the encoder: R45 holds of the registers that each operation of ENC leaves. -/

namespace Sys2Proof.Machine

/-- R111(a): one more byte is one more addition. -/
theorem checksum_concat (bs : List Byte) (b : Byte) : checksum (bs ++ [b]) = checksum bs + b := by
  simp [checksum]

/-- R110: the checksum is the sum of the bytes modulo 256. -/
theorem checksum_toNat (bs : List Byte) : (checksum bs).toNat = (bs.map BitVec.toNat).sum % 256 := by
  induction bs using List.reverseRecOn with
  | nil => rfl
  | append_singleton bs b ih => simp [checksum_concat, BitVec.toNat_add, ih]

theorem summedOffset_iff (k : Idx) : summedOffset k = true ↔ 2 ≤ k.toNat ∧ k.toNat ≤ 7 := by
  simp [summedOffset]

/-- R62, R110: at the offsets 2 to 7 the frame image holds the summed bytes, in order. -/
theorem memReadEncF_summed {e : EncState} (hbusy : e.busy = true) {k : Idx} (h2 : 2 ≤ k.toNat) (h7 : k.toNat ≤ 7) :
    memReadEncF e k = (summedBytes e.p e.dev)[k.toNat - 2]? := by
  simp only [memReadEncF, hbusy, if_true]
  generalize k.toNat = n at h2 h7
  interval_cases n <;> rfl

/-- R45: the encoder's reset state meets the invariant. -/
theorem encInv_reset : EncInv EncState.reset :=
  ⟨Nat.zero_le 9, fun _ => rfl, fun h => nomatch h⟩

/-- R131: a loaded request meets the invariant, with nothing summed yet. -/
theorem encInv_loadedEnc (r : EncReq) : EncInv (loadedEnc r) :=
  ⟨Nat.zero_le 9, (fun h => nomatch h), fun _ => rfl⟩

/-- R62, R45(c): from offset `k` to `k + 1` the sum grows by the byte sent where that byte is a summed one. -/
theorem checksum_take_succ {e : EncState} {b : Byte} (hbusy : e.busy = true) {k : Idx} (hk : k.toNat < 9)
    (hread : memReadEncF e k = some b) :
    checksum ((summedBytes e.p e.dev).take (min (k.toNat + 1) 8 - 2)) =
      if summedOffset k then checksum ((summedBytes e.p e.dev).take (min k.toNat 8 - 2)) + b
      else checksum ((summedBytes e.p e.dev).take (min k.toNat 8 - 2)) := by
  split
  case isTrue hsum =>
    obtain ⟨h2, h7⟩ := (summedOffset_iff k).1 hsum
    have hbyte : (summedBytes e.p e.dev)[k.toNat - 2]? = some b := by rw [← memReadEncF_summed hbusy h2 h7, hread]
    rw [show min (k.toNat + 1) 8 - 2 = k.toNat - 2 + 1 by omega, show min k.toNat 8 - 2 = k.toNat - 2 by omega,
      List.take_add_one, hbyte, Option.toList_some, checksum_concat]
  case isFalse hsum =>
    rw [summedOffset_iff] at hsum
    rw [show min (k.toNat + 1) 8 - 2 = min k.toNat 8 - 2 by omega]

/-- R132: a byte sent at its offset keeps the invariant. -/
theorem EncInv.encAfter {e : EncState} {b : Byte} (h : EncInv e) (hbusy : e.busy = true)
    (hread : memReadEncF e e.idx = some b) : EncInv (encAfter e.idx b e) := by
  unfold Machine.encAfter
  split
  case isTrue => exact encInv_reset
  case isFalse hne =>
    have hlt : e.idx.toNat < 9 := by
      have hle := h.idx_le
      have : e.idx.toNat ≠ 9 := fun h9 => hne (BitVec.eq_of_toNat_eq h9)
      omega
    have hnext : (e.idx + 1#4).toNat = e.idx.toNat + 1 := by simp; omega
    refine ⟨by rw [hnext]; omega, fun hidle => absurd hbusy (by simpa using hidle), fun _ => ?_⟩
    rw [hnext, checksum_take_succ hbusy hlt hread, h.acc hbusy, csumSum_eq_add]

/-- R45 through one line of the script. -/
theorem EncInv.runLine {l : Line} {s t : State} (h : EncInv s.enc) (hrun : Machine.runLine l s = .next t) :
    EncInv t.enc := by
  obtain ⟨es, rfl, rfl⟩ | ⟨r, rfl, hbusy, rfl⟩ | ⟨r, rfl, hidle, rfl⟩ | ⟨rfl, hidle, rfl⟩ |
    ⟨b, rfl, hbusy, hle, hread, rfl⟩ | ⟨b, last, rfl, rfl⟩ | ⟨rfl, rfl⟩ | ⟨b, bs, rfl, rfl⟩ := runLine_cases hrun
  · exact encInv_reset
  · exact h
  · exact encInv_loadedEnc r
  · exact h
  · exact h.encAfter hbusy hread
  · rwa [(decByte_frame b last s).1]
  · exact h
  · rwa [(decBlock_frame (b :: bs) s).1]

end Sys2Proof.Machine
end

section
/-! The family of spec/10_state.md, the decoder: its registers are those of the bytes of the open block. -/

namespace Sys2Proof.Machine

/-! ### The fields after a byte is stored -/

section Store
variable (d : DecState) (k : Idx) (b : Byte)

theorem memWriteDecF_cmd : (memWriteDecF d k b).cmd = if k.toNat = 1 then b else d.cmd := by
  unfold memWriteDecF; split <;> simp_all

theorem memWriteDecF_p : (memWriteDecF d k b).p =
    ⟨if k.toNat = 2 then b else d.p.p0, if k.toNat = 3 then b else d.p.p1,
     if k.toNat = 4 then b else d.p.p2, if k.toNat = 5 then b else d.p.p3⟩ := by
  unfold memWriteDecF; split <;> simp_all

theorem memWriteDecF_dev : (memWriteDecF d k b).dev =
    devOf (if k.toNat = 6 then b else devHigh d.dev) (if k.toNat = 7 then b else devLow d.dev) := by
  unfold memWriteDecF; split <;> simp_all [setDevHigh, setDevLow]

theorem memWriteDecF_csrx : (memWriteDecF d k b).csrx = if k.toNat = 8 then b else d.csrx := by
  unfold memWriteDecF; split <;> simp_all

end Store

/-! ### One byte more -/

theorem decIdxNext_toNat (i : Idx) : (decIdxNext i).toNat = if 9 ≤ i.toNat then 10 else i.toNat + 1 := by
  unfold decIdxNext
  split
  · rfl
  · simp; omega

/-- The byte at an offset after one more byte has come. -/
theorem getD_concat (bs : List Byte) (b : Byte) (i : Nat) :
    (bs ++ [b]).getD i 0#8 = if bs.length = i then b else bs.getD i 0#8 := by
  grind

/-- R31: the summed bytes of the block after one more byte has come. -/
theorem drop_take_concat (bs : List Byte) (b : Byte) :
    ((bs ++ [b]).take 8).drop 2 =
      if 2 ≤ bs.length ∧ bs.length ≤ 7 then (bs.take 8).drop 2 ++ [b] else (bs.take 8).drop 2 := by
  by_cases hlong : 8 ≤ bs.length
  · rw [if_neg (by omega), List.take_append_of_le_length hlong]
  · have htake : bs.take 8 = bs := List.take_of_length_le (by omega)
    have htake' : (bs ++ [b]).take 8 = bs ++ [b] := List.take_of_length_le (by simp; omega)
    rw [htake, htake']
    split
    · exact List.drop_append_of_le_length (by omega)
    · rw [List.drop_of_length_le (by simp; omega), List.drop_of_length_le (by omega)]

/-- R46: the decoder in its reset state holds no byte. -/
theorem decHolds_nil_iff {d : DecState} : DecHolds [] d ↔ d = DecState.reset := by
  constructor
  · rintro ⟨hidx, hferr, hcmd, hp, hdev, hcsrx, hacc⟩
    have hidx0 : d.idx = 0#4 := BitVec.eq_of_toNat_eq hidx
    cases d
    simp_all [DecState.reset, devOf, checksum]
  · rintro rfl
    exact ⟨rfl, rfl, rfl, rfl, rfl, rfl, rfl⟩

/-- R32: below 10 the index is the number of bytes received. -/
theorem DecHolds.idx_eq_iff {bs : List Byte} {d : DecState} (h : DecHolds bs d) {i : Nat} (hi : i < 10) :
    d.idx.toNat = i ↔ bs.length = i := by
  rw [h.idx]; omega

/-- R33, R161: the flag after one more byte has come. -/
theorem DecHolds.ferrNext_concat {bs : List Byte} {d : DecState} (h : DecHolds bs d) (b : Byte) :
    ferrNext d.idx d.ferr b =
      ((bs ++ [b]).headD Config.head != Config.head || decide (10 ≤ (bs ++ [b]).length)) := by
  have hlen : 9 ≤ d.idx.toNat ↔ 10 ≤ (bs ++ [b]).length := by simp [h.idx]
  rw [ferrNext, h.ferr, decide_eq_decide.2 hlen]
  cases bs with
  | nil => simp [headBad, decHolds_nil_iff.1 h, DecState.reset]
  | cons c cs =>
    have hne : d.idx ≠ 0#4 := fun h0 => by simpa [h0] using h.idx_eq_iff (i := 0) (by omega)
    have hbad : headBad d.idx b = false := by rw [headBad, beq_false_of_ne hne, Bool.false_and]
    have habsorb : (decide (10 ≤ (c :: cs).length) || decide (10 ≤ (c :: cs ++ [b]).length)) =
        decide (10 ≤ (c :: cs ++ [b]).length) := by
      rw [← Bool.decide_or, decide_eq_decide]; simp; omega
    rw [hbad, Bool.or_false, Bool.or_assoc, habsorb]
    rfl

/-- R161: DEC's registers after a byte without `rx_last`. -/
theorem decByte_notLast_dec (b : Byte) (s : State) :
    (decByte b false s).dec =
      { idx := decIdxNext s.dec.idx
        ferr := ferrNext s.dec.idx s.dec.ferr b
        cmd := (memWriteDecF s.dec s.dec.idx b).cmd
        p := (memWriteDecF s.dec s.dec.idx b).p
        dev := (memWriteDecF s.dec s.dec.idx b).dev
        csrx := (memWriteDecF s.dec s.dec.idx b).csrx
        acc := if summedOffset s.dec.idx then csumSum s.dec.acc b else s.dec.acc } := rfl

/-- R161: a byte without `rx_last` is one more byte of the open block. -/
theorem DecHolds.concat {bs : List Byte} {s : State} (h : DecHolds bs s.dec) (b : Byte) :
    DecHolds (bs ++ [b]) (decByte b false s).dec := by
  rw [decByte_notLast_dec]
  constructor
  case idx =>
    simp only [decIdxNext_toNat, h.idx, List.length_append, List.length_singleton]
    split <;> omega
  case ferr => exact h.ferrNext_concat b
  case cmd => simp only [memWriteDecF_cmd, h.cmd, h.idx_eq_iff, Nat.reduceLT, getD_concat]
  case p => simp only [memWriteDecF_p, h.p, h.idx_eq_iff, Nat.reduceLT, getD_concat]
  case dev =>
    simp only [memWriteDecF_dev, h.dev, h.idx_eq_iff, Nat.reduceLT, devHigh_devOf, devLow_devOf, getD_concat]
  case csrx => simp only [memWriteDecF_csrx, h.csrx, h.idx_eq_iff, Nat.reduceLT, getD_concat]
  case acc =>
    have hsum : summedOffset s.dec.idx = true ↔ 2 ≤ bs.length ∧ bs.length ≤ 7 := by
      rw [summedOffset_iff, h.idx]; omega
    simp only [hsum, csumSum_eq_add, h.acc, drop_take_concat, apply_ite checksum, checksum_concat]

end Sys2Proof.Machine
end

section
/-! The family of spec/10_state.md, lines and runs: the invariants through one line, one step and any run. -/

namespace Sys2Proof.Machine

/-! ### One line -/

/-- R27 to R33, R46, through one line of the script. -/
theorem DecHolds.runLine {bs : List Byte} {l : Line} {s t : State} (h : DecHolds bs s.dec)
    (hrun : runLine l s = .next t) : DecHolds (openBlock bs [l]) t.dec := by
  obtain ⟨es, rfl, rfl⟩ | ⟨r, rfl, hbusy, rfl⟩ | ⟨r, rfl, hidle, rfl⟩ | ⟨rfl, hidle, rfl⟩ |
    ⟨b, rfl, hbusy, hle, hread, rfl⟩ | ⟨b, last, rfl, rfl⟩ | ⟨rfl, rfl⟩ | ⟨b, bs', rfl, rfl⟩ := runLine_cases hrun
  · exact decHolds_nil_iff.2 rfl
  · exact h
  · exact h
  · exact h
  · exact h
  · cases last
    · exact h.concat b
    · exact decHolds_nil_iff.2 (decByte_last_dec b s)
  · exact h
  · exact decHolds_nil_iff.2 (decBlock_dec b bs' s)

/-- R45 and R46 through one line of the script. -/
theorem RegInv.runLine {l : Line} {s t : State} (h : RegInv s) (hrun : runLine l s = .next t) : RegInv t := by
  obtain ⟨henc, bs, hdec⟩ := h
  exact ⟨henc.runLine hrun, openBlock bs [l], hdec.runLine hrun⟩

/-- R72: unwired, a line leaves the events to come and the wiring. -/
theorem runLine_unwired {l : Line} {s t : State} (hw : s.env.wired = false) (hrun : runLine l s = .next t) :
    t.env.script = s.env.script ∧ t.env.wired = false := by
  obtain ⟨es, rfl, rfl⟩ | ⟨r, rfl, hbusy, rfl⟩ | ⟨r, rfl, hidle, rfl⟩ | ⟨rfl, hidle, rfl⟩ |
    ⟨b, rfl, hbusy, hle, hread, rfl⟩ | ⟨b, last, rfl, rfl⟩ | ⟨rfl, rfl⟩ | ⟨b, bs, rfl, rfl⟩ := runLine_cases hrun
  · exact ⟨rfl, hw⟩
  · exact ⟨rfl, hw⟩
  · exact ⟨rfl, hw⟩
  · exact ⟨rfl, hw⟩
  · exact ⟨sendTx_script_unwired _ _ hw, hw⟩
  · obtain ⟨_, _, hscript, hwired⟩ := decByte_frame b last s
    exact ⟨hscript, hwired.trans hw⟩
  · exact ⟨rfl, hw⟩
  · obtain ⟨_, _, hscript, hwired⟩ := decBlock_frame (b :: bs) s
    exact ⟨hscript, hwired.trans hw⟩

/-! ### One step -/

/-- A step waits, or runs the line at the head of the script. -/
theorem step_cases {s t : State} (h : step s = .next t) :
    (s.env.script = [] ∧ t = s) ∨
    ∃ l rest, s.env.script = l :: rest ∧ runLine l (s.withScript rest) = .next t := by
  cases hs : s.env.script with
  | nil => rw [step_nil hs] at h; cases h; exact .inl ⟨rfl, rfl⟩
  | cons l rest => rw [step_cons hs] at h; exact .inr ⟨l, rest, rfl, h⟩

/-- R45 and R46 through one step. -/
theorem RegInv.step {s t : State} (h : RegInv s) (hstep : step s = .next t) : RegInv t := by
  obtain ⟨-, rfl⟩ | ⟨l, rest, -, hrun⟩ := step_cases hstep
  · exact h
  · exact RegInv.runLine (s := s.withScript rest) h hrun

/-- R27 to R33, R46, through one step, which takes the line at the head of the script if there is one. -/
theorem DecHolds.step {bs : List Byte} {s t : State} (h : DecHolds bs s.dec) (hstep : step s = .next t) :
    DecHolds (openBlock bs s.env.script.head?.toList) t.dec := by
  obtain ⟨hs, rfl⟩ | ⟨l, rest, hs, hrun⟩ := step_cases hstep
  · rwa [hs]
  · rw [hs]
    exact DecHolds.runLine (s := s.withScript rest) h hrun

/-! ### Runs -/

/-- A run of one step more is a step that goes on and the run after it. -/
theorem steps_succ_iff {n : Nat} {s t : State} :
    steps (n + 1) s = .next t ↔ ∃ u, step s = .next u ∧ steps n u = .next t := by
  rw [steps]
  cases hstep : step s with
  | next u => simp
  | fault r => simp
  | refused r => simp

/-- What every step keeps, every run keeps. -/
theorem steps_keeps {P : State → Prop} (hkeep : ∀ s t, P s → step s = .next t → P t) {n : Nat} {s t : State}
    (hs : P s) (hrun : steps n s = .next t) : P t := by
  induction n generalizing s with
  | zero => cases hrun; exact hs
  | succ n ih =>
    obtain ⟨u, hstep, hrest⟩ := steps_succ_iff.1 hrun
    exact ih (hkeep s u hs hstep) hrest

/-- The line of a step that goes on is the first line taken. -/
theorem takenLines_succ_of_step {n : Nat} {s t : State} (h : step s = .next t) :
    takenLines (n + 1) s = s.env.script.head?.toList ++ takenLines n t := by
  simp [takenLines, h]

/-- The bytes that are open after at most one line and then others. -/
theorem openBlock_toList_append (bs : List Byte) (l : Option Line) (ls : List Line) :
    openBlock bs (l.toList ++ ls) = openBlock (openBlock bs l.toList) ls := by
  cases l with
  | none => rfl
  | some l => exact openBlock_cons bs l ls

/-- R27 to R33, R46, through any run, over the lines it takes. -/
theorem DecHolds.steps {bs : List Byte} {n : Nat} {s t : State} (h : DecHolds bs s.dec)
    (hrun : steps n s = .next t) : DecHolds (openBlock bs (takenLines n s)) t.dec := by
  induction n generalizing bs s with
  | zero => cases hrun; exact h
  | succ n ih =>
    obtain ⟨u, hstep, hrest⟩ := steps_succ_iff.1 hrun
    rw [takenLines_succ_of_step hstep, openBlock_toList_append]
    exact ih (h.step hstep) hrest

/-- R98: an unwired run takes the lines of the script in order. -/
theorem takenLines_unwired {lines rest : List Line} {s t : State} (hw : s.env.wired = false)
    (hs : s.env.script = lines ++ rest) (hrun : steps lines.length s = .next t) :
    takenLines lines.length s = lines := by
  induction lines generalizing s with
  | nil => rfl
  | cons l lines ih =>
    obtain ⟨u, hstep, hrest⟩ := steps_succ_iff.1 hrun
    have hline : Machine.runLine l (s.withScript (lines ++ rest)) = .next u := (step_cons hs).symm.trans hstep
    obtain ⟨hscript, hwired⟩ := runLine_unwired (s := s.withScript (lines ++ rest)) hw hline
    rw [List.length_cons, takenLines_succ_of_step hstep, hs, ih hwired hscript hrest]
    rfl

/-- R49: a run starts with both agents in their reset states, which meet R45 and R46. -/
theorem regInv_startState (script : List Line) (wired : Bool) : RegInv (startState script wired) :=
  ⟨encInv_reset, [], decHolds_nil_iff.2 rfl⟩

/-- R45(c): the sum of the image's bytes from offset 2 on is the sum of the summed bytes. -/
theorem sum_memReadEncF {e : EncState} (hbusy : e.busy = true) {n : Nat} (hn : n ≤ 6) :
    (List.range' 2 n).map (fun j => ((memReadEncF e (BitVec.ofNat 4 j)).getD 0#8).toNat) =
      ((summedBytes e.p e.dev).take n).map BitVec.toNat := by
  induction n with
  | zero => rfl
  | succ n ih =>
    have hoff : (BitVec.ofNat 4 (2 + n)).toNat = 2 + n := by simp; omega
    have hread := memReadEncF_summed hbusy (k := BitVec.ofNat 4 (2 + n)) (by omega) (by omega)
    have hlt : n < (summedBytes e.p e.dev).length := by simpa [summedBytes] using hn
    rw [hoff, Nat.add_sub_cancel_left, List.getElem?_eq_getElem hlt] at hread
    rw [List.range'_concat, List.map_append, ih (by omega), List.take_add_one, List.map_append, one_mul,
      List.getElem?_eq_getElem hlt]
    simp [hread]

/-! ### The statements -/

/-- Settles O42: the reset values are the invariants' own base case, and both traces are empty. -/
theorem resetMeetsTheInvariants : Obligations.ResetMeetsTheInvariants :=
  ⟨regInv_startState [] false, (fun hbusy => nomatch hbusy), fun _ hr => nomatch hr⟩

/-- Settles O43, by the cases of the line that the step takes. -/
theorem stepKeepsRegisterInvariants : Obligations.StepKeepsRegisterInvariants :=
  fun _ _ hinv hstep => hinv.step hstep

/-- Settles O47, by the cases of the line that the step takes. -/
theorem stepKeepsTheOpenBlock : Obligations.StepKeepsTheOpenBlock := by
  intro s t bs l rest hholds hscript hstep
  have h := hholds.step hstep
  rwa [hscript] at h

/-- Settles O46: R45 at reset, kept by every step, read off in the terms of the frame image. -/
theorem reachableEncoderMeetsR45 : Obligations.ReachableEncoderMeetsR45 := by
  intro script wired n t hrun
  obtain ⟨⟨hle, hidle, hacc⟩, -⟩ :=
    steps_keeps (P := RegInv) (fun _ _ hinv hstep => hinv.step hstep) (regInv_startState script wired) hrun
  refine ⟨hle, fun hnot => ?_, fun hbusy => ?_⟩
  · rw [hidle hnot]
    exact ⟨rfl, rfl, rfl, rfl, rfl⟩
  · rw [hacc hbusy, checksum_toNat, sum_memReadEncF hbusy (by omega)]

/-- Settles O48, by induction on the number of steps, over the lines taken. -/
theorem reachableDecoderHoldsItsBlock : Obligations.ReachableDecoderHoldsItsBlock := by
  have hstart (script : List Line) (wired : Bool) : DecHolds [] (startState script wired).dec :=
    decHolds_nil_iff.2 rfl
  refine ⟨fun script wired n t hrun => (hstart script wired).steps hrun, fun lines rest t hrun => ?_⟩
  have htaken := takenLines_unwired (s := startState (lines ++ rest) false) rfl rfl hrun
  have hholds := (hstart (lines ++ rest) false).steps hrun
  rw [htaken] at hholds
  exact ⟨htaken, hholds⟩

/-- Settles O49: an idle encoder is in its reset state, and a decoder at index 0 holds no byte. -/
theorem quiescentBlockIsReset : Obligations.QuiescentBlockIsReset := by
  rintro s ⟨henc, bs, hdec⟩ hquiet
  obtain ⟨hidle, hidx⟩ : s.enc.busy = false ∧ s.dec.idx = 0#4 := by simpa [quiescent] using hquiet
  have hempty : bs = [] := List.eq_nil_of_length_eq_zero ((hdec.idx_eq_iff (by omega)).1 (by rw [hidx]; rfl))
  subst hempty
  exact ⟨henc.idle hidle, decHolds_nil_iff.1 hdec⟩

end Sys2Proof.Machine
end

section
/-! The family of spec/10_state.md, R20: an operation of one agent is a function of that agent's registers alone. -/

namespace Sys2Proof.Machine

/-! ### ENC -/

/-- What an operation of ENC may do: leave new registers and give at most one `tx` event. -/
def encActs (a : EncState × Option TxEvent) (s : State) : State :=
  match a with
  | (e, none) => s.setEnc e
  | (e, some ev) => sendTx ev (s.setEnc e)

section EncActs
variable (a : EncState × Option TxEvent) (s : State)

@[simp] theorem encActs_dec : (encActs a s).dec = s.dec := by obtain ⟨e, _ | ev⟩ := a <;> rfl
@[simp] theorem encActs_resLog : (encActs a s).env.resLog = s.env.resLog := by obtain ⟨e, _ | ev⟩ := a <;> rfl
theorem encActs_setDec (d : DecState) : encActs a (s.setDec d) = (encActs a s).setDec d := by
  obtain ⟨e, _ | ev⟩ := a <;> rfl

end EncActs

/-- R132: what `ENC.EMIT` leaves and gives, from the encoder's registers. -/
def emitAct (e : EncState) : EncState × Option TxEvent :=
  match memReadEncF e e.idx with
  | some b => (encAfter e.idx b e, some ⟨b, txLast e.idx⟩)
  | none => (e, none)

theorem emitAct_of_read {e : EncState} {b : Byte} (h : memReadEncF e e.idx = some b) :
    emitAct e = (encAfter e.idx b e, some ⟨b, txLast e.idx⟩) := by
  simp [emitAct, h]

/-- R96, R132: a sub-case of `ENC.EMIT` is the common part at its own offset and nothing elsewhere. -/
theorem exec_emit_eq {i : Instr} {k : Idx} {f : State → State} {s : State} (hk : k.toNat ≤ 9)
    (hdec : decode (.tx k) = .ok i) (hexec : exec i s = .next (encAt k f s)) :
    exec i s = .next (encActs (if s.enc.busy = true ∧ s.enc.idx = k then emitAct s.enc else (s.enc, none)) s) := by
  split
  case isTrue hat =>
    obtain ⟨hbusy, rfl⟩ := hat
    obtain ⟨b, hread, hrun⟩ := runLine_tx_busy hbusy hk
    have hsel : select (.port .tx) s = some (.tx s.enc.idx) := by simp [select, hbusy]
    rw [← runLine_of_select_of_decode hsel hdec, hrun, emitAct_of_read hread]
    rfl
  case isFalse hoff => rw [hexec, encAt, if_neg hoff]; rfl

/-- R20: what the operation does is a function of ENC's registers. -/
def ActsOnEnc (i : Instr) : Prop :=
  ∃ act : EncState → EncState × Option TxEvent, ∀ s, exec i s = .next (encActs (act s.enc) s)

theorem ActsOnEnc.of_emit {i : Instr} {f : State → State → State} (k : Idx) (hk : k.toNat ≤ 9)
    (hdec : decode (.tx k) = .ok i) (hexec : ∀ s, exec i s = .next (encAt k (f s) s)) : ActsOnEnc i :=
  ⟨fun e => if e.busy = true ∧ e.idx = k then emitAct e else (e, none), fun s => exec_emit_eq hk hdec (hexec s)⟩

theorem actsOnEnc_of_encOp {i : Instr} (hop : encOp i = true) : ActsOnEnc i := by
  cases i with
  | encLoad r =>
    refine ⟨fun e => (if e.busy then e else loadedEnc r, none), fun s => congrArg Host.Outcome.next ?_⟩
    change (if s.enc.busy then s else s.setEnc (loadedEnc r)) = s.setEnc (if s.enc.busy then s.enc else loadedEnc r)
    split <;> rfl
  | encEmitHead => exact .of_emit 0#4 (by decide) rfl fun _ => rfl
  | encEmitCmd => exact .of_emit 1#4 (by decide) rfl fun _ => rfl
  | encEmitP0 => exact .of_emit 2#4 (by decide) rfl fun _ => rfl
  | encEmitP1 => exact .of_emit 3#4 (by decide) rfl fun _ => rfl
  | encEmitP2 => exact .of_emit 4#4 (by decide) rfl fun _ => rfl
  | encEmitP3 => exact .of_emit 5#4 (by decide) rfl fun _ => rfl
  | encEmitDevh => exact .of_emit 6#4 (by decide) rfl fun _ => rfl
  | encEmitDevl => exact .of_emit 7#4 (by decide) rfl fun _ => rfl
  | encEmitCsum => exact .of_emit 8#4 (by decide) rfl fun _ => rfl
  | encEmitTail => exact .of_emit 9#4 (by decide) rfl fun _ => rfl
  | _ => cases hop

/-! ### DEC -/

/-- What an operation of DEC may do: leave new registers and give at most one `res` event, with the comparison that
was made for it. -/
def decActs (a : DecState × Option (ResEvent × Bool)) (s : State) : State :=
  match a with
  | (d, none) => s.setDec d
  | (d, some (r, m)) => (setCmp m (sendRes r s)).setDec d

section DecActs
variable (a : DecState × Option (ResEvent × Bool)) (s : State)

@[simp] theorem decActs_enc : (decActs a s).enc = s.enc := by obtain ⟨d, _ | r⟩ := a <;> rfl
@[simp] theorem decActs_txLog : (decActs a s).env.txLog = s.env.txLog := by obtain ⟨d, _ | r⟩ := a <;> rfl
@[simp] theorem decActs_script : (decActs a s).env.script = s.env.script := by obtain ⟨d, _ | r⟩ := a <;> rfl
@[simp] theorem decActs_setDec (d : DecState) : decActs a (s.setDec d) = decActs a s := by
  obtain ⟨d', _ | r⟩ := a <;> rfl
theorem decActs_setEnc (e : EncState) : decActs a (s.setEnc e) = (decActs a s).setEnc e := by
  obtain ⟨d, _ | r⟩ := a <;> rfl

end DecActs

/-- R161: what `DEC.BYTE` leaves and gives, from the decoder's registers. -/
def byteAct (b : Byte) (last : Bool) (d : DecState) : DecState × Option (ResEvent × Bool) :=
  if last then (DecState.reset, some (blockResult d b, csumMatch d.acc d.csrx))
  else ({ decStore b d with ferr := ferrNext d.idx d.ferr b, idx := decIdxNext d.idx }, none)

theorem decByte_eq_decActs (b : Byte) (last : Bool) (s : State) :
    decByte b last s = decActs (byteAct b last s.dec) s := by
  cases last <;> rfl

/-- R99: a block is a function of DEC's registers: its last byte alone gives a result. -/
theorem decBlock_eq_decActs (bs : List Byte) :
    ∃ act : DecState → DecState × Option (ResEvent × Bool), ∀ s, decBlock bs s = decActs (act s.dec) s := by
  induction bs with
  | nil => exact ⟨fun d => (d, none), fun _ => rfl⟩
  | cons b bs ih =>
    cases bs with
    | nil => exact ⟨byteAct b true, fun _ => rfl⟩
    | cons b' bs =>
      obtain ⟨act, hact⟩ := ih
      refine ⟨fun d => act (byteAct b false d).1, fun s => ?_⟩
      rw [decBlock_cons, hact]
      exact decActs_setDec _ s (byteAct b false s.dec).1

/-- R96, R161: a sub-case of `DEC.BYTE` is the common part at its own index and nothing elsewhere. -/
theorem exec_byte_eq {i : Instr} {k : Idx} {b : Byte} {last : Bool} {f : State → State} {s : State}
    (hdec : decode (.rx (BitVec.ofBool last ++ k) b) = .ok i) (hexec : exec i s = .next (decAt k f s)) :
    exec i s = .next (decActs (if s.dec.idx = k then byteAct b last s.dec else (s.dec, none)) s) := by
  split
  case isTrue hat =>
    subst hat
    rw [← runLine_of_select_of_decode (l := .port (.rx b last)) rfl hdec, runLine_rx, decByte_eq_decActs]
  case isFalse hoff => rw [hexec, decAt_other f hoff]; rfl

/-- R96: the selector word of `rx_last` at an index of 0 to 7. -/
theorem decode_rx_shortLast (i : BitVec 3) (b : Byte) :
    decode (.rx (BitVec.ofBool true ++ (0#1 ++ i)) b) = .ok (.decByteShortLast i b) := by
  have hmask : ∀ i : BitVec 3, (BitVec.ofBool true ++ (0#1 ++ i)) &&& 0x18#5 = 0x10#5 := by decide
  have hlow : ∀ i : BitVec 3, (BitVec.ofBool true ++ (0#1 ++ i)).extractLsb' 0 3 = i := by decide
  rw [decode, decodeRx, if_pos (hmask i), hlow i]

/-- R20: what the operation does is a function of DEC's registers. -/
def ActsOnDec (i : Instr) : Prop :=
  ∃ act : DecState → DecState × Option (ResEvent × Bool), ∀ s, exec i s = .next (decActs (act s.dec) s)

theorem ActsOnDec.of_block {i : Instr} (bs : List Byte) (hexec : ∀ s, exec i s = .next (decBlock bs s)) :
    ActsOnDec i := by
  obtain ⟨act, hact⟩ := decBlock_eq_decActs bs
  exact ⟨act, fun s => (hexec s).trans (congrArg _ (hact s))⟩

theorem ActsOnDec.of_byte {i : Instr} {f : State → State → State} (k : Idx) (b : Byte) (last : Bool)
    (hdec : decode (.rx (BitVec.ofBool last ++ k) b) = .ok i)
    (hexec : ∀ s, exec i s = .next (decAt k (f s) s)) : ActsOnDec i :=
  ⟨fun d => if d.idx = k then byteAct b last d else (d, none), fun s => exec_byte_eq hdec (hexec s)⟩

theorem actsOnDec_of_decOp {i : Instr} (hop : decOp i = true) : ActsOnDec i := by
  cases i with
  | frameCmd p dev csum => exact .of_block (frameBytes Config.cmdOut p dev csum) fun _ => rfl
  | frameSample p dev csum => exact .of_block (frameBytes Config.cmdSample p dev csum) fun _ => rfl
  | frameAck p dev csum => exact .of_block (frameBytes Config.cmdAck p dev csum) fun _ => rfl
  | frameAny cmd p dev csum => exact .of_block (frameBytes cmd p dev csum) fun _ => rfl
  | decByteHead b => exact .of_byte 0#4 b false rfl fun _ => rfl
  | decByteCmd b => exact .of_byte 1#4 b false rfl fun _ => rfl
  | decByteP0 b => exact .of_byte 2#4 b false rfl fun _ => rfl
  | decByteP1 b => exact .of_byte 3#4 b false rfl fun _ => rfl
  | decByteP2 b => exact .of_byte 4#4 b false rfl fun _ => rfl
  | decByteP3 b => exact .of_byte 5#4 b false rfl fun _ => rfl
  | decByteDevh b => exact .of_byte 6#4 b false rfl fun _ => rfl
  | decByteDevl b => exact .of_byte 7#4 b false rfl fun _ => rfl
  | decByteCsum b => exact .of_byte 8#4 b false rfl fun _ => rfl
  | decByteTailNotlast b => exact .of_byte 9#4 b false rfl fun _ => rfl
  | decByteOver b => exact .of_byte 10#4 b false rfl fun _ => rfl
  | decByteTailLast b => exact .of_byte 9#4 b true rfl fun _ => rfl
  | decByteShortLast i b => exact .of_byte (0#1 ++ i) b true (decode_rx_shortLast i b) fun _ => rfl
  | decByteShort8Last b => exact .of_byte 8#4 b true rfl fun _ => rfl
  | decByteOverLast b => exact .of_byte 10#4 b true rfl fun _ => rfl
  | _ => cases hop

/-! ### The statement -/

/-- Settles O50: what an operation does is a function of its own agent's registers. -/
theorem agentsShareNoState : Obligations.AgentsShareNoState := by
  constructor
  · intro i s d hop
    obtain ⟨act, hact⟩ := actsOnEnc_of_encOp hop
    refine ⟨encActs (act s.enc) s, hact s, encActs_dec _ s, encActs_resLog _ s, ?_⟩
    exact (hact (s.setDec d)).trans (congrArg _ (encActs_setDec _ s d))
  · intro i s e hop
    obtain ⟨act, hact⟩ := actsOnDec_of_decOp hop
    refine ⟨decActs (act s.dec) s, hact s, decActs_enc _ s, decActs_txLog _ s, decActs_script _ s, ?_⟩
    exact (hact (s.setEnc e)).trans (congrArg _ (decActs_setEnc _ s e))

end Sys2Proof.Machine
end

section
/-! The family of spec/20_memory.md, R62: the encoder's frame image, byte by byte. -/

namespace Sys2Proof.Machine

/-- R62: while busy the frame image is the ten bytes of a frame with the encoder's fields, `ENC.ACC` at the offset of the
checksum. -/
theorem memReadEncF_eq_frameBytes {e : EncState} (hbusy : e.busy = true) (k : Idx) :
    memReadEncF e k = (frameBytes e.cmd e.p e.dev e.acc)[k.toNat]? := by
  simp only [memReadEncF, hbusy, if_true]
  generalize k.toNat = n
  match n with
  | 0 | 1 | 2 | 3 | 4 | 5 | 6 | 7 | 8 | 9 => rfl
  | n + 10 => rfl

/-- Settles O14: the offsets of the ten bytes, and no more than ten of them. -/
theorem encoderImageByOffset : Obligations.EncoderImageByOffset := by
  intro e hbusy
  simp only [memReadEncF_eq_frameBytes hbusy]
  exact ⟨rfl, rfl, rfl, rfl, rfl, rfl, rfl, rfl, rfl, rfl, fun _ hk => List.getElem?_eq_none hk⟩

/-- R62, R142: where R45 holds, the byte of `ENC.IDX` is the one the frame in progress has there. -/
theorem EncInv.memReadEncF_idx {e : EncState} (h : EncInv e) (hbusy : e.busy = true) (hlt : e.idx.toNat < 9) :
    memReadEncF e e.idx = (encImage e)[e.idx.toNat]? := by
  rw [memReadEncF_eq_frameBytes hbusy]
  by_cases h8 : e.idx.toNat = 8
  · have hacc := h.acc hbusy
    rw [h8] at hacc ⊢
    exact congrArg some hacc
  · have hlt8 : e.idx.toNat < 8 := by omega
    generalize e.idx.toNat = n at hlt8
    interval_cases n <;> rfl

/-! ### ENC's registers after a byte that is not the tail -/

section Emit
variable {e : EncState} (hlt : e.idx.toNat < 9) (b : Byte)
include hlt

theorem encAfter_of_lt : encAfter e.idx b e =
    { e with acc := if summedOffset e.idx then csumSum e.acc b else e.acc, idx := e.idx + 1#4 } :=
  if_neg fun h9 => absurd hlt (by rw [h9]; decide)

theorem encAfter_busy : (encAfter e.idx b e).busy = e.busy := by rw [encAfter_of_lt hlt]

theorem encAfter_idx : (encAfter e.idx b e).idx.toNat = e.idx.toNat + 1 := by
  rw [encAfter_of_lt hlt]; simp; omega

/-- R132: the fields of the frame in progress stay as they were loaded. -/
theorem encImage_encAfter : encImage (encAfter e.idx b e) = encImage e := by rw [encAfter_of_lt hlt]; rfl

theorem txLast_of_lt : txLast e.idx = false :=
  decide_eq_false fun h9 => absurd hlt (by rw [h9]; decide)

end Emit

/-- R69(b): the byte sent is the next one of the frame in progress. -/
theorem EncInv.take_encImage_succ {e : EncState} {b : Byte} (h : EncInv e) (hbusy : e.busy = true)
    (hlt : e.idx.toNat < 9) (hread : memReadEncF e e.idx = some b) :
    (encImage e).take (e.idx.toNat + 1) = (encImage e).take e.idx.toNat ++ [b] := by
  rw [List.take_add_one, ← h.memReadEncF_idx hbusy hlt, hread, Option.toList_some]

end Sys2Proof.Machine
end

section
/-! The family of spec/20_memory.md, R69: the traces through one step. -/

namespace Sys2Proof.Machine

/-! ### The `tx` trace -/

/-- R69(b) through one line of the script. -/
theorem TxInv.runLine {l : Line} {s t : State} (henc : EncInv s.enc) (h : TxInv s)
    (hrun : Machine.runLine l s = .next t) : TxInv t := by
  obtain ⟨es, rfl, rfl⟩ | ⟨r, rfl, hbusy, rfl⟩ | ⟨r, rfl, hidle, rfl⟩ | ⟨rfl, hidle, rfl⟩ |
    ⟨b, rfl, hbusy, hle, hread, rfl⟩ | ⟨b, last, rfl, rfl⟩ | ⟨rfl, rfl⟩ | ⟨b, bs, rfl, rfl⟩ := runLine_cases hrun
  · exact fun hbusy => nomatch hbusy
  · exact h
  · exact fun _ => ⟨s.env.txLog, (List.append_nil _).symm⟩
  · exact h
  · intro hbusy'
    have hlt : s.enc.idx.toNat < 9 := by
      by_contra hnine
      have h9 : s.enc.idx = 9#4 := BitVec.eq_of_toNat_eq (by change _ = 9; omega)
      exact absurd hbusy' (by simp [encAfter, h9, EncState.reset])
    obtain ⟨before, hlog⟩ := h hbusy
    refine ⟨before, ?_⟩
    simp [encImage_encAfter hlt, encAfter_idx hlt, henc.take_encImage_succ hbusy hlt hread, txLast_of_lt hlt, hlog]
  · obtain ⟨henc', htx, -, -⟩ := decByte_frame b last s
    rwa [TxInv, henc', htx]
  · exact h
  · obtain ⟨henc', htx, -, -⟩ := decBlock_frame (b :: bs) s
    rwa [TxInv, henc', htx]

/-! ### The results -/

/-- R31, R110: from the eighth byte on the summed bytes of the block are those of the stored fields. -/
theorem DecHolds.summedBytes_eq {bs : List Byte} {d : DecState} (h : DecHolds bs d) (hlen : 8 ≤ bs.length) :
    summedBytes d.p d.dev = (bs.take 8).drop 2 := by
  apply List.ext_getElem
  · simp [summedBytes]; omega
  · intro i hi _
    have hi6 : i < 6 := hi
    interval_cases i <;> simp (disch := omega) [summedBytes, h.p, h.dev]

/-- R173: a block is framed well where its last byte is the end marker at index 9 and no error was flagged. -/
theorem framingOk_iff {i : Idx} {ferr : Bool} {b : Byte} :
    framingOk i ferr b = true ↔ i = 9#4 ∧ ferr = false ∧ b = Config.tail := by
  by_cases hi : i = 9#4
  · simp [framingOk, headBad, tailBad, hi]
  · simp [framingOk, hi]

/-- R173 to R175: the result of a block without a framing error. -/
theorem blockResult_of_framingOk {d : DecState} {b : Byte} (hok : framingOk d.idx d.ferr b = true) :
    blockResult d b =
      { status := if d.acc = d.csrx then .ok else .checksumError, checksumOk := d.acc == d.csrx, cmd := d.cmd,
        p := d.p, dev := d.dev, csum := d.csrx, computed := d.acc } := by
  simp [blockResult, hok, resStatus]

/-- R175, R176: the byte with `rx_last` brings a result that the rules allow. -/
theorem DecHolds.resEventOk_blockResult {bs : List Byte} {d : DecState} (h : DecHolds bs d) (b : Byte) :
    resEventOk (blockResult d b) = true := by
  by_cases hok : framingOk d.idx d.ferr b = true
  · obtain ⟨hnine, -, -⟩ := framingOk_iff.1 hok
    have hlen : bs.length = 9 := (h.idx_eq_iff (by omega)).1 (by rw [hnine]; rfl)
    have hacc : d.acc = checksum (summedBytes d.p d.dev) := by rw [h.summedBytes_eq (by omega), h.acc]
    rw [blockResult_of_framingOk hok]
    by_cases hmatch : d.acc = d.csrx
    · simp [resEventOk, hmatch, ← hacc]
    · simp [resEventOk, hmatch, ← hacc, Ne.symm hmatch]
  · simp [blockResult, hok, resEventOk, framingErrorResult]

/-- R175, R176 through one byte on `rx`. -/
theorem ResInv.decByte {s : State} (h : ResInv s) (hdec : DecInv s.dec) (b : Byte) (last : Bool) :
    ResInv (decByte b last s) := by
  cases last with
  | false => exact h
  | true =>
    obtain ⟨bs, hbs⟩ := hdec
    intro r hr
    obtain hr | rfl : r ∈ s.env.resLog ∨ r = blockResult s.dec b := by simpa [Machine.decByte] using hr
    · exact h r hr
    · exact hbs.resEventOk_blockResult b

/-- R175, R176 through a block, byte by byte. -/
theorem ResInv.decBlock {bs : List Byte} {s : State} (h : ResInv s) (hdec : DecInv s.dec) : ResInv (decBlock bs s) := by
  induction bs, s using decBlock.induct with
  | case1 s => exact h
  | case2 b s => exact h.decByte hdec b true
  | case3 b b' bs s ih =>
    obtain ⟨held, hheld⟩ := hdec
    exact ih (h.decByte ⟨held, hheld⟩ b false) ⟨held ++ [b], hheld.concat b⟩

/-- R175, R176 through one line of the script. -/
theorem ResInv.runLine {l : Line} {s t : State} (hdec : DecInv s.dec) (h : ResInv s)
    (hrun : Machine.runLine l s = .next t) : ResInv t := by
  obtain ⟨es, rfl, rfl⟩ | ⟨r, rfl, hbusy, rfl⟩ | ⟨r, rfl, hidle, rfl⟩ | ⟨rfl, hidle, rfl⟩ |
    ⟨b, rfl, hbusy, hle, hread, rfl⟩ | ⟨b, last, rfl, rfl⟩ | ⟨rfl, rfl⟩ | ⟨b, bs, rfl, rfl⟩ := runLine_cases hrun
  · exact h
  · exact h
  · exact h
  · exact h
  · exact h
  · exact h.decByte hdec b last
  · exact h
  · exact h.decBlock hdec

/-! ### The statement -/

/-- Settles O44, by the cases of the line that the step takes. -/
theorem stepKeepsTraceInvariants : Obligations.StepKeepsTraceInvariants := by
  rintro s t ⟨henc, hdec⟩ htx hres hstep
  obtain ⟨-, rfl⟩ | ⟨l, rest, -, hrun⟩ := step_cases hstep
  · exact ⟨htx, hres⟩
  · exact ⟨TxInv.runLine (s := s.withScript rest) henc htx hrun,
      ResInv.runLine (s := s.withScript rest) hdec hres hrun⟩

end Sys2Proof.Machine
end

section
/-! The family of spec/20_memory.md, R69(d): the agents' operations commute, and an unwired trace depends on the lines
of its own agent alone. -/

namespace Sys2Proof.Machine

/-! ### Operations -/

/-- R69(d): what ENC does and what DEC does touch different parts of the state. -/
theorem encActs_decActs (a : EncState × Option TxEvent) (b : DecState × Option (ResEvent × Bool)) (s : State) :
    encActs a (decActs b s) = decActs b (encActs a s) := by
  obtain ⟨e, _ | ev⟩ := a <;> obtain ⟨d, _ | r⟩ := b <;> rfl

/-- Settles O51: each operation is a function of its own agent's registers, which the other one leaves. -/
theorem agentStepsCommute : Obligations.AgentStepsCommute := by
  intro i j s hi hj
  obtain ⟨f, hf⟩ := actsOnEnc_of_encOp hi
  obtain ⟨g, hg⟩ := actsOnDec_of_decOp hj
  refine ⟨encActs (f s.enc) s, decActs (g s.dec) s, decActs (g s.dec) (encActs (f s.enc) s), hf s, ?_, hg s, ?_⟩
  · rw [hg, encActs_dec]
  · rw [hf, decActs_enc, encActs_decActs]

/-! ### Lines -/

/-- R69(d): a line of ENC does what ENC's registers say. -/
theorem encLine_acts {l : Line} (hl : encLine l = true) :
    ∃ act : EncState → EncState × Option TxEvent, ∀ s t, runLine l s = .next t → t = encActs (act s.enc) s := by
  match l, hl with
  | .port (.encReq r), _ =>
    refine ⟨fun e => (if e.busy then e else loadedEnc r, none), fun s t hrun => ?_⟩
    rw [runLine_encReq] at hrun
    cases hrun
    cases hbusy : s.enc.busy <;> simp only [hbusy, Bool.false_eq_true, if_true, if_false] <;> rfl
  | .port .tx, _ =>
    refine ⟨fun e => if e.busy then emitAct e else (e, none), fun s t hrun => ?_⟩
    cases hbusy : s.enc.busy with
    | false =>
      rw [runLine_tx_idle hbusy] at hrun
      cases hrun
      simp only [hbusy, Bool.false_eq_true, if_false]
      rfl
    | true =>
      have hle : s.enc.idx.toNat ≤ 9 := by
        by_contra hgt
        rw [runLine_tx_fault hbusy (by omega)] at hrun
        cases hrun
      obtain ⟨b, hread, hemit⟩ := runLine_tx_busy hbusy hle
      rw [hemit] at hrun
      cases hrun
      simp only [hbusy, if_true, emitAct_of_read hread]
      rfl

/-- R69(d): a line of DEC does what DEC's registers say. -/
theorem decLine_acts {l : Line} (hl : decLine l = true) :
    ∃ act : DecState → DecState × Option (ResEvent × Bool), ∀ s, runLine l s = .next (decActs (act s.dec) s) := by
  match l, hl with
  | .port (.rx b last), _ =>
    exact ⟨byteAct b last, fun s => (runLine_rx b last s).trans (congrArg _ (decByte_eq_decActs b last s))⟩
  | .block [], _ => exact ⟨fun d => (d, none), fun _ => rfl⟩
  | .block (b :: bs), _ =>
    obtain ⟨act, hact⟩ := decBlock_eq_decActs (b :: bs)
    exact ⟨act, fun s => (runLine_block b bs s).trans (congrArg _ (hact s))⟩

/-- R45: from registers that meet it every line goes on. -/
theorem EncInv.runLine_next {s : State} (h : EncInv s.enc) (l : Line) : ∃ t, Machine.runLine l s = .next t := by
  match l with
  | .rst es => exact ⟨_, runLine_rst es s⟩
  | .port (.encReq r) => exact ⟨_, runLine_encReq r s⟩
  | .port .tx =>
    cases hbusy : s.enc.busy with
    | false => exact ⟨_, runLine_tx_idle hbusy⟩
    | true =>
      obtain ⟨b, -, hemit⟩ := runLine_tx_busy hbusy h.idx_le
      exact ⟨_, hemit⟩
  | .port (.rx b last) => exact ⟨_, runLine_rx b last s⟩
  | .block [] => exact ⟨_, runLine_block_nil s⟩
  | .block (b :: bs) => exact ⟨_, runLine_block b bs s⟩

/-! ### The two traces -/

/-- What R69(d) says of ENC: its registers and its trace. -/
def encTrace (s : State) : EncState × List TxEvent := (s.enc, s.env.txLog)

/-- What R69(d) says of DEC: its registers and its results. -/
def decTrace (s : State) : DecState × List ResEvent := (s.dec, s.env.resLog)

theorem encTrace_encActs (a : EncState × Option TxEvent) (s : State) :
    encTrace (encActs a s) = (a.1, s.env.txLog ++ a.2.toList) := by
  obtain ⟨e, _ | ev⟩ := a <;> simp [encTrace, encActs]

theorem encTrace_decActs (a : DecState × Option (ResEvent × Bool)) (s : State) :
    encTrace (decActs a s) = encTrace s := by simp [encTrace]

theorem decTrace_decActs (a : DecState × Option (ResEvent × Bool)) (s : State) :
    decTrace (decActs a s) = (a.1, s.env.resLog ++ (a.2.map Prod.fst).toList) := by
  obtain ⟨d, _ | r⟩ := a <;> simp [decTrace, decActs]

theorem decTrace_encActs (a : EncState × Option TxEvent) (s : State) :
    decTrace (encActs a s) = decTrace s := by simp [decTrace]

/-- R98: the lines that concern both agents are those of RESET. -/
theorem rst_of_not_encLine_of_not_decLine {l : Line} (henc : encLine l = false) (hdec : decLine l = false) :
    ∃ es, l = .rst es := by
  match l, henc, hdec with
  | .rst es, _, _ => exact ⟨es, rfl⟩

theorem encTrace_of_decLine {l : Line} (hl : decLine l = true) {s t : State} (hrun : runLine l s = .next t) :
    encTrace t = encTrace s := by
  obtain ⟨act, hact⟩ := decLine_acts hl
  rw [hact] at hrun
  cases hrun
  exact encTrace_decActs _ s

theorem decTrace_of_encLine {l : Line} (hl : encLine l = true) {s t : State} (hrun : runLine l s = .next t) :
    decTrace t = decTrace s := by
  obtain ⟨act, hact⟩ := encLine_acts hl
  rw [hact s t hrun]
  exact decTrace_encActs _ s

/-- R69(d): a line that is not DEC's acts on ENC's trace alone, whatever the rest of the state is. -/
theorem encTrace_of_not_decLine {l : Line} (hl : decLine l = false) :
    ∃ f : EncState × List TxEvent → EncState × List TxEvent,
      ∀ s t, runLine l s = .next t → encTrace t = f (encTrace s) := by
  cases henc : encLine l with
  | true =>
    obtain ⟨act, hact⟩ := encLine_acts henc
    refine ⟨fun v => ((act v.1).1, v.2 ++ (act v.1).2.toList), fun s t hrun => ?_⟩
    rw [hact s t hrun, encTrace_encActs]
    rfl
  | false =>
    obtain ⟨es, rfl⟩ := rst_of_not_encLine_of_not_decLine henc hl
    refine ⟨fun v => (EncState.reset, v.2), fun s t hrun => ?_⟩
    cases hrun
    rfl

/-- R69(d): a line that is not ENC's acts on DEC's trace alone, whatever the rest of the state is. -/
theorem decTrace_of_not_encLine {l : Line} (hl : encLine l = false) :
    ∃ f : DecState × List ResEvent → DecState × List ResEvent,
      ∀ s t, runLine l s = .next t → decTrace t = f (decTrace s) := by
  cases hdec : decLine l with
  | true =>
    obtain ⟨act, hact⟩ := decLine_acts hdec
    refine ⟨fun v => ((act v.1).1, v.2 ++ ((act v.1).2.map Prod.fst).toList), fun s t hrun => ?_⟩
    rw [hact] at hrun
    cases hrun
    exact decTrace_decActs _ s
  | false =>
    obtain ⟨es, rfl⟩ := rst_of_not_encLine_of_not_decLine hl hdec
    refine ⟨fun v => (DecState.reset, v.2), fun s t hrun => ?_⟩
    cases hrun
    rfl

/-! ### Scripts -/

/-- R45, R98: unwired, from registers that meet R45, the first line runs and then the others. -/
theorem steps_cons_unwired {s : State} (henc : EncInv s.enc) (hw : s.env.wired = false) (l : Line) (ls : List Line) :
    ∃ t, runLine l (s.withScript ls) = .next t ∧ EncInv t.enc ∧ t.env.wired = false ∧
      steps (l :: ls).length (s.withScript (l :: ls)) = steps ls.length (t.withScript ls) := by
  obtain ⟨t, hrun⟩ := EncInv.runLine_next (s := s.withScript ls) henc l
  obtain ⟨hscript, hwired⟩ : t.env.script = ls ∧ t.env.wired = false :=
    runLine_unwired (s := s.withScript ls) hw hrun
  have hself : t.withScript ls = t := hscript ▸ withScript_self t
  refine ⟨t, hrun, EncInv.runLine (s := s.withScript ls) henc hrun, hwired, ?_⟩
  rw [hself]
  exact steps_line rfl hrun

section Filter
variable {V : Type} {view : State → V} {keep : Line → Bool}
  (hscript : ∀ s ls, view (s.withScript ls) = view s)
  (hskip : ∀ l, keep l = false → ∀ s t, runLine l s = .next t → view t = view s)
  (hkeep : ∀ l, keep l = true → ∃ f : V → V, ∀ s t, runLine l s = .next t → view t = f (view s))
include hscript hskip hkeep

/-- R69(d): a view of the state that the lines left out do not change, and that after a line kept depends on the view
before alone, is the same after an unwired script with them and without them. -/
theorem steps_filter (lines : List Line) {s u : State} (hs : EncInv s.enc) (hsw : s.env.wired = false)
    (hu : EncInv u.enc) (huw : u.env.wired = false) (hview : view s = view u) :
    ∃ t v, steps lines.length (s.withScript lines) = .next t ∧
      steps (lines.filter keep).length (u.withScript (lines.filter keep)) = .next v ∧ view t = view v := by
  induction lines generalizing s u with
  | nil => exact ⟨_, _, rfl, rfl, by rw [List.filter_nil, hscript, hscript, hview]⟩
  | cons l ls ih =>
    obtain ⟨s', hrun, hs', hsw', hsteps⟩ := steps_cons_unwired hs hsw l ls
    rw [hsteps]
    cases hl : keep l with
    | false =>
      rw [List.filter_cons_of_neg (by simp [hl])]
      exact ih hs' hsw' hu huw (by rw [hskip l hl _ _ hrun, hscript, hview])
    | true =>
      obtain ⟨u', hrun', hu', huw', hsteps'⟩ := steps_cons_unwired hu huw l (ls.filter keep)
      obtain ⟨f, hf⟩ := hkeep l hl
      rw [List.filter_cons_of_pos hl, hsteps']
      exact ih hs' hsw' hu' huw' (by rw [hf _ _ hrun, hf _ _ hrun', hscript, hscript, hview])

end Filter

/-! ### The statements -/

/-- Settles O52: ENC's trace is a view that DEC's lines do not change. -/
theorem encoderIgnoresDecoderLines : Obligations.EncoderIgnoresDecoderLines := by
  intro s lines henc hw
  obtain ⟨t, u, hall, hkept, htrace⟩ := steps_filter (view := encTrace) (keep := fun l => !decLine l) (fun _ _ => rfl)
    (fun l hl _ _ hrun => encTrace_of_decLine (by simpa using hl) hrun)
    (fun l hl => encTrace_of_not_decLine (by simpa using hl)) lines henc hw henc hw rfl
  obtain ⟨hregs, hlog⟩ := Prod.ext_iff.1 htrace
  exact ⟨t, u, hall, hkept, hregs, hlog⟩

/-- Settles O53: DEC's trace is a view that ENC's lines do not change. -/
theorem decoderIgnoresEncoderLines : Obligations.DecoderIgnoresEncoderLines := by
  intro s lines henc hw
  obtain ⟨t, u, hall, hkept, htrace⟩ := steps_filter (view := decTrace) (keep := fun l => !encLine l) (fun _ _ => rfl)
    (fun l hl _ _ hrun => decTrace_of_encLine (by simpa using hl) hrun)
    (fun l hl => decTrace_of_not_encLine (by simpa using hl)) lines henc hw henc hw rfl
  obtain ⟨hregs, hlog⟩ := Prod.ext_iff.1 htrace
  exact ⟨t, u, hall, hkept, hregs, hlog⟩

end Sys2Proof.Machine
end

section
/-! The family of spec/20_memory.md, R72: `tx` wired to `rx`, each byte received in the step after it was sent. -/

namespace Sys2Proof.Machine

/-! ### The frame of a request -/

/-- R88: the request port and the function level read the same payload. -/
theorem fit4_requestPayload (r : EncReq) : fit4 (requestPayload r) = fitPort r.plen r.pdata := by
  simp only [fit4, requestPayload, fitPort, payloadBytes]
  generalize r.plen.toNat = n
  match n with
  | 0 | 1 | 2 | 3 => rfl
  | n + 4 => simp

/-- R130, R131: `encode` of a request is the image of the loaded registers and the end marker. -/
theorem frameEncode_request (r : EncReq) :
    frameEncode r.cmd (requestPayload r) r.dev = encImage (loadedEnc r) ++ [Config.tail] := by
  rw [frameEncode, fit4_requestPayload]
  rfl

/-- R36: of the ten `tx` events of a frame the last one is marked. -/
theorem frameEvents_encImage (e : EncState) :
    frameEvents (encImage e ++ [Config.tail]) = (encImage e).map (fun b => ⟨b, false⟩) ++ [⟨Config.tail, true⟩] := rfl

/-- R173 to R176, R183: a decoder that holds the nine bytes of an image reports them as OK when the end marker comes. -/
theorem DecHolds.blockResult_encImage {e : EncState} {d : DecState} (h : DecHolds (encImage e) d) :
    blockResult d Config.tail =
      { status := .ok, checksumOk := true, cmd := e.cmd, p := e.p, dev := e.dev,
        csum := checksum (summedBytes e.p e.dev), computed := checksum (summedBytes e.p e.dev) } := by
  have hidx : d.idx = 9#4 := BitVec.eq_of_toNat_eq h.idx
  have hok : framingOk d.idx d.ferr Config.tail = true := framingOk_iff.2 ⟨hidx, h.ferr, rfl⟩
  have hcmd : d.cmd = e.cmd := h.cmd
  have hp : d.p = e.p := h.p
  have hdev : d.dev = e.dev := h.dev.trans (devOf_high_low e.dev)
  have hcsrx : d.csrx = checksum (summedBytes e.p e.dev) := h.csrx
  have hacc : d.acc = checksum (summedBytes e.p e.dev) := h.acc
  simp [blockResult_of_framingOk hok, hcmd, hp, hdev, hcsrx, hacc]

/-! ### One byte around the loop -/

/-- R72: a byte sent while wired is received in the next step. -/
theorem steps_two_wired {s : State} {rest : List Line} {b : Byte} (henc : EncInv s.enc) (hbusy : s.enc.busy = true)
    (hw : s.env.wired = true) (hs : s.env.script = .port .tx :: rest) (hread : memReadEncF s.enc s.enc.idx = some b) :
    steps 2 s = .next (decByte b (txLast s.enc.idx)
      ((sendTx ⟨b, txLast s.enc.idx⟩ (s.setEnc (encAfter s.enc.idx b s.enc))).withScript rest)) := by
  obtain ⟨b', hread', hemit⟩ := runLine_tx_busy (s := s.withScript rest) hbusy henc.idx_le
  obtain rfl : b' = b := Option.some.inj (hread'.symm.trans hread)
  rw [steps_line hs hemit]
  exact steps_line (sendTx_script_wired _ _ hw) (runLine_rx _ _ _)

/-- R72, R99: `LOOPBACK` of the request `r` from the state `s`, after `k` bytes have gone out and come back. -/
structure LoopedBack (s : State) (r : EncReq) (rest : List Line) (k : Nat) (t : State) : Prop where
  encInv : EncInv t.enc
  busy   : t.enc.busy = true
  idx    : t.enc.idx.toNat = k
  image  : encImage t.enc = encImage (loadedEnc r)
  dec    : DecHolds ((encImage (loadedEnc r)).take k) t.dec
  wired  : t.env.wired = true
  script : t.env.script = List.replicate (10 - k) (.port .tx) ++ rest
  txLog  : t.env.txLog = s.env.txLog ++ ((encImage (loadedEnc r)).take k).map (fun b => ⟨b, false⟩)
  resLog : t.env.resLog = s.env.resLog

section Loop
variable {s t : State} {r : EncReq} {rest : List Line} {k : Nat}

/-- R131: after the request is taken no byte is out yet. -/
theorem loopedBack_zero (hidle : s.enc.busy = false) (hdec : s.dec = DecState.reset) (hw : s.env.wired = true)
    (hs : s.env.script = encodeLines r ++ rest) : ∃ t, steps 1 s = .next t ∧ LoopedBack s r rest 0 t := by
  have hload : runLine (.port (.encReq r)) (s.withScript (List.replicate 10 (.port .tx) ++ rest)) =
      .next ((s.withScript (List.replicate 10 (.port .tx) ++ rest)).setEnc (loadedEnc r)) := by
    rw [runLine_encReq, withScript_enc, hidle]
    rfl
  refine ⟨_, steps_line hs hload, encInv_loadedEnc r, rfl, rfl, rfl, ?_, hw, rfl, ?_, rfl⟩
  · exact decHolds_nil_iff.2 hdec
  · exact (List.append_nil _).symm

/-- R69(b), R161: one byte more of the image goes out and is stored by DEC. -/
theorem LoopedBack.succ (h : LoopedBack s r rest k t) (hk : k < 9) :
    ∃ u, steps 2 t = .next u ∧ LoopedBack s r rest (k + 1) u := by
  obtain ⟨hinv, hbusy, rfl, himage, hdec, hw, hs, htx, hres⟩ := h
  obtain ⟨b, hread, -⟩ := runLine_tx_busy hbusy hinv.idx_le
  have hnext := hinv.take_encImage_succ hbusy hk hread
  have hscript : t.env.script = .port .tx :: (List.replicate (10 - (t.enc.idx.toNat + 1)) (.port .tx) ++ rest) := by
    rw [hs, show 10 - t.enc.idx.toNat = 10 - (t.enc.idx.toNat + 1) + 1 by omega]
    rfl
  have hsteps := steps_two_wired hinv hbusy hw hscript hread
  rw [txLast_of_lt hk] at hsteps
  rw [himage] at hnext
  refine ⟨_, hsteps, hinv.encAfter hbusy hread, (encAfter_busy hk b).trans hbusy, encAfter_idx hk b,
    (encImage_encAfter hk b).trans himage, ?_, hw, rfl, ?_, hres⟩
  · rw [hnext]
    exact DecHolds.concat (s := State.withScript _ _) hdec b
  · rw [hnext, List.map_append, ← List.append_assoc, ← htx]
    rfl

/-- R72: the first nine bytes go around the loop in two steps each. -/
theorem loopedBack_of_le (h0 : ∃ t, steps 1 s = .next t ∧ LoopedBack s r rest 0 t) (hk : k ≤ 9) :
    ∃ t, steps (1 + 2 * k) s = .next t ∧ LoopedBack s r rest k t := by
  induction k with
  | zero => exact h0
  | succ k ih =>
    obtain ⟨t, hrun, h⟩ := ih (by omega)
    obtain ⟨u, hpair, hu⟩ := h.succ (by omega)
    exact ⟨u, (steps_add hrun).trans hpair, hu⟩

/-- R143, R177: the end marker goes out, comes back with `rx_last`, and both agents are in their reset states. -/
theorem LoopedBack.finish (h : LoopedBack s r rest 9 t) :
    ∃ u, steps 2 t = .next u ∧ u.enc = EncState.reset ∧ u.dec = DecState.reset ∧ u.env.script = rest ∧
      u.env.txLog = s.env.txLog ++ frameEvents (frameEncode r.cmd (requestPayload r) r.dev) ∧
      u.env.resLog = s.env.resLog ++ [
        { status := .ok, checksumOk := true, cmd := r.cmd, p := fitPort r.plen r.pdata, dev := r.dev
          csum := checksum (summedBytes (fitPort r.plen r.pdata) r.dev)
          computed := checksum (summedBytes (fitPort r.plen r.pdata) r.dev) }] := by
  obtain ⟨hinv, hbusy, hidx, -, hdec, hw, hs, htx, hres⟩ := h
  have hnine : t.enc.idx = 9#4 := BitVec.eq_of_toNat_eq hidx
  have hread : memReadEncF t.enc t.enc.idx = some Config.tail := by rw [hnine, memReadEncF_eq_frameBytes hbusy]; rfl
  have hsteps := steps_two_wired hinv hbusy hw hs hread
  rw [hnine] at hsteps
  refine ⟨_, hsteps, rfl, rfl, rfl, ?_, ?_⟩
  · rw [frameEncode_request, frameEvents_encImage, ← List.append_assoc]
    exact congrArg (· ++ [⟨Config.tail, true⟩]) htx
  · have hresult : blockResult t.dec Config.tail = _ := DecHolds.blockResult_encImage (e := loadedEnc r) hdec
    exact congrArg₂ (· ++ [·]) hres hresult

end Loop

/-! ### The statement -/

/-- Settles O56: the request, nine bytes of the image around the loop, and the end marker. -/
theorem loopbackReturnsTheRequest : Obligations.LoopbackReturnsTheRequest := by
  intro s r rest hinv hquiet hw hs
  obtain ⟨henc, hdec⟩ := quiescentBlockIsReset s hinv hquiet
  obtain ⟨t, hrun, hnine⟩ := loopedBack_of_le (loopedBack_zero (by rw [henc]; rfl) hdec hw hs) (le_refl 9)
  obtain ⟨u, hlast, hfinal⟩ := hnine.finish
  exact ⟨u, _, (steps_add hrun).trans hlast, hfinal⟩

end Sys2Proof.Machine
end

section
/-! The family of spec/30_encoding.md, R81 to R96: instructions and their codes. -/

namespace Sys2Proof.Machine

/-! ### Frames -/

/-- R84: the frame row that takes a `command_id`. -/
def frameInstr (cmd : Byte) (p : Payload) (dev : DevId) (csum : Byte) : Instr :=
  if cmd = Config.cmdOut then .frameCmd p dev csum
  else if cmd = Config.cmdSample then .frameSample p dev csum
  else if cmd = Config.cmdAck then .frameAck p dev csum
  else .frameAny cmd p dev csum

/-- R84: a frame of any `command_id` is a well-formed instruction, and its ten bytes are its code. -/
theorem encode_frameInstr (cmd : Byte) (p : Payload) (dev : DevId) (csum : Byte) :
    (frameInstr cmd p dev csum).wellFormed = true ∧
    encode (frameInstr cmd p dev csum) = some (.block (frameBytes cmd p dev csum)) := by
  unfold frameInstr
  split_ifs with hout hsample hack
  · exact ⟨rfl, by rw [hout]; rfl⟩
  · exact ⟨rfl, by rw [hsample]; rfl⟩
  · exact ⟨rfl, by rw [hack]; rfl⟩
  · exact ⟨by simp [Instr.wellFormed, listedCmd, hout, hsample, hack], rfl⟩

/-- R84: FRAME.ANY is the row of every `command_id` that has none of its own. -/
theorem frameInstr_unlisted {cmd : Byte} (h : listedCmd cmd = false) (p : Payload) (dev : DevId) (csum : Byte) :
    frameInstr cmd p dev csum = .frameAny cmd p dev csum := by
  obtain ⟨⟨hout, hsample⟩, hack⟩ : (cmd ≠ Config.cmdOut ∧ cmd ≠ Config.cmdSample) ∧ cmd ≠ Config.cmdAck := by
    simpa [listedCmd] using h
  simp [frameInstr, hout, hsample, hack]

/-- R60: ten bytes between the two markers are the frame of their fields. -/
theorem ten_eq_frameBytes (b1 b2 b3 b4 b5 b6 b7 b8 : Byte) :
    [Config.head, b1, b2, b3, b4, b5, b6, b7, b8, Config.tail] = frameBytes b1 ⟨b2, b3, b4, b5⟩ (devOf b6 b7) b8 := by
  simp [frameBytes]

/-- R81 to R84: the decoder reads a frame from its ten bytes, by its `command_id`. -/
theorem decodeFrame_frameBytes (cmd : Byte) (p : Payload) (dev : DevId) (csum : Byte) :
    decodeFrame (frameBytes cmd p dev csum) = .ok (frameInstr cmd p dev csum) := by
  simp only [frameBytes, decodeFrame_ten, devOf_high_low, and_self, if_true, frameInstr, apply_ite Except.ok]

/-- R82, R91: a block that the decoder reads a frame from is ten bytes between the two markers. -/
theorem markers_of_decodeFrame {bs : List Byte} {i : Instr} (h : decodeFrame bs = .ok i) :
    ∃ b1 b2 b3 b4 b5 b6 b7 b8, bs = [Config.head, b1, b2, b3, b4, b5, b6, b7, b8, Config.tail] := by
  have hread := h
  unfold decodeFrame at h
  split at h
  next b0 b1 b2 b3 b4 b5 b6 b7 b8 b9 =>
    rw [decodeFrame_ten] at hread
    by_cases hmark : b0 = Config.head ∧ b9 = Config.tail
    · obtain ⟨rfl, rfl⟩ := hmark
      exact ⟨b1, b2, b3, b4, b5, b6, b7, b8, rfl⟩
    · rw [if_neg hmark] at hread
      cases hread
  next => cases h

/-- R84: the decoder reads frames, each as the instruction of its `command_id`, and nothing else. -/
theorem decodeFrame_eq_ok_iff {bs : List Byte} {i : Instr} :
    decodeFrame bs = .ok i ↔ ∃ cmd p dev csum, bs = frameBytes cmd p dev csum ∧ i = frameInstr cmd p dev csum := by
  constructor
  · intro h
    obtain ⟨b1, b2, b3, b4, b5, b6, b7, b8, rfl⟩ := markers_of_decodeFrame h
    rw [ten_eq_frameBytes, decodeFrame_frameBytes] at h
    cases h
    exact ⟨b1, ⟨b2, b3, b4, b5⟩, devOf b6 b7, b8, ten_eq_frameBytes .., rfl⟩
  · rintro ⟨cmd, p, dev, csum, rfl, rfl⟩
    exact decodeFrame_frameBytes cmd p dev csum

/-! ### Decode after encode -/

/-- R96: the pattern 10xxx is `rx_last` above an index of 0 to 7. -/
theorem shortLast_selector (i : BitVec 3) : 0b10#2 ++ i = (BitVec.ofBool true ++ (0#1 ++ i) : DecSelector) := by
  revert i; decide

/-- R81, R84, R96: the code of a well-formed instruction decodes to it, row by row. -/
theorem decode_of_encode {i : Instr} {c : Code} (hwf : i.wellFormed = true) (henc : encode i = some c) :
    decode c = .ok i := by
  cases i with
  | frameCmd p dev csum => cases henc; exact decodeFrame_frameBytes Config.cmdOut p dev csum
  | frameSample p dev csum => cases henc; exact decodeFrame_frameBytes Config.cmdSample p dev csum
  | frameAck p dev csum => cases henc; exact decodeFrame_frameBytes Config.cmdAck p dev csum
  | frameAny cmd p dev csum =>
    cases henc
    have hunlisted : listedCmd cmd = false := by simpa [Instr.wellFormed] using hwf
    rw [← frameInstr_unlisted hunlisted]
    exact decodeFrame_frameBytes cmd p dev csum
  | decByteShortLast i b => cases henc; rw [shortLast_selector]; exact decode_rx_shortLast i b
  | csumClr | csumAdd | csumCmp => cases henc
  | _ => cases henc; rfl

/-- R112 to R114: the CSUM micro-operations, and they alone, have no code. -/
theorem encode_eq_none_iff {i : Instr} :
    encode i = none ↔ (∃ u, i = .csumClr u) ∨ (∃ u b, i = .csumAdd u b) ∨ (∃ u b, i = .csumCmp u b) := by
  cases i <;> simp [encode]

/-- Settles O34, row by row; the frames by the bytes between their markers. -/
theorem decodeOfEncodeGivesTheInstruction : Obligations.DecodeOfEncodeGivesTheInstruction :=
  fun _ hwf => ⟨fun _ henc => decode_of_encode hwf henc, encode_eq_none_iff⟩

/-! ### Encode after decode -/

/-- R96: the code of the instruction that `ENC.IDX` selects holds that index. -/
theorem encode_of_decodeTx {idx : Idx} {i : Instr} (h : decodeTx idx = .ok i) :
    i.wellFormed = true ∧ encode i = some (.tx idx) := by
  unfold decodeTx at h
  split at h <;> cases h
  all_goals
    rename_i hidx
    obtain ⟨-, rfl⟩ := BitVec.toNat_eq_nat.1 hidx
    exact ⟨rfl, rfl⟩

/-- R96: the code of the instruction that a selector word selects holds that word, the free bits of 10xxx among it. -/
theorem encode_of_decodeRx {sel : DecSelector} {b : Byte} {i : Instr} (h : decodeRx sel b = .ok i) :
    i.wellFormed = true ∧ encode i = some (.rx sel b) := by
  unfold decodeRx at h
  split at h
  case isTrue hmask =>
    have hbits : ∀ sel : DecSelector, sel &&& 0x18#5 = 0x10#5 → 0b10#2 ++ sel.extractLsb' 0 3 = sel := by decide
    cases h
    exact ⟨rfl, by rw [encode, hbits sel hmask]⟩
  case isFalse =>
    split at h <;> cases h
    all_goals
      rename_i hsel
      obtain ⟨-, rfl⟩ := BitVec.toNat_eq_nat.1 hsel
      exact ⟨rfl, rfl⟩

/-- Settles O33, by the form of the code. -/
theorem encodeOfDecodeGivesTheCode : Obligations.EncodeOfDecodeGivesTheCode := by
  intro c i h
  cases c with
  | block bs =>
    obtain ⟨cmd, p, dev, csum, rfl, rfl⟩ := decodeFrame_eq_ok_iff.1 h
    exact encode_frameInstr cmd p dev csum
  | rst => cases h; exact ⟨rfl, rfl⟩
  | encReq r => cases h; exact ⟨rfl, rfl⟩
  | tx idx => exact encode_of_decodeTx h
  | rx sel b => exact encode_of_decodeRx h

/-! ### Words and selection -/

/-- Settles O27: a frame word is its ten bytes, of which the envelope's mask keeps the two markers. -/
theorem envelopeMaskTestsTheMarkers : Obligations.EnvelopeMaskTestsTheMarkers := by
  refine ⟨rfl, rfl, fun w => ?_⟩
  have hmask : w &&& envelopeMask = envelopeMatch ↔ frameByte w 0 = Config.head ∧ frameByte w 9 = Config.tail := by
    rw [← word_and_envelopeMask, wordOfBytes_frameByte, envelopeMatch_eq]
  refine ⟨hmask, Iff.trans ⟨?_, ?_⟩ hmask.symm⟩
  · rintro ⟨i, hread⟩
    obtain ⟨b1, b2, b3, b4, b5, b6, b7, b8, hbytes⟩ := markers_of_decodeFrame hread
    simp only [bytesOfWord, List.cons.injEq] at hbytes
    obtain ⟨hhead, -, -, -, -, -, -, -, -, htail, -⟩ := hbytes
    exact ⟨hhead, htail⟩
  · rintro ⟨hhead, htail⟩
    rw [bytesOfWord, hhead, htail, ten_eq_frameBytes, decodeFrame_frameBytes]
    exact ⟨_, rfl⟩

/-- R96: the selector word is `DEC.IDX`, with 16 more where `rx_last` is set. -/
theorem selector_toNat (last : Bool) (k : Idx) :
    (BitVec.ofBool last ++ k : DecSelector).toNat = (if last then 16 else 0) + k.toNat := by
  revert k; cases last <;> decide

/-- Settles O29, by the port and, for ENC, by whether it is busy. -/
theorem eventsSelectByPortAndIndex : Obligations.EventsSelectByPortAndIndex := by
  intro s r b last es
  refine ⟨rfl, fun hidle => ?_, fun hbusy => ?_, _, rfl, selector_toNat last s.dec.idx⟩
  · simp [select, hidle]
  · simp [select, hbusy]

/-- Settles O30: each word, evaluated. -/
theorem wordsOfTheTableDecode : Obligations.WordsOfTheTableDecode := by
  unfold Obligations.WordsOfTheTableDecode
  decide

/-! ### Placing a code -/

/-- Log entry 17: the line that a code is placed as. -/
def placedLine : Code → Line
  | .block bs => .block bs
  | .rst => .rst []
  | .encReq r => .port (.encReq r)
  | .tx _ => .port .tx
  | .rx sel b => .port (.rx b (sel.getLsbD 4))

theorem placeCode_script (c : Code) (s : State) : (placeCode c s).env.script = placedLine c :: s.env.script := by
  cases c <;> rfl

/-- R96: the line of a placed code selects the code, from the registers that placing it set. -/
theorem select_placedLine {c : Code} {i : Instr} (h : decode c = .ok i) (s : State) (ls : List Line) :
    select (placedLine c) ((placeCode c s).withScript ls) = some c := by
  cases c with
  | block bs =>
    cases bs with
    | nil => cases h
    | cons b bs => rfl
  | rst => rfl
  | encReq r => rfl
  | tx idx => rfl
  | rx sel b =>
    have hbits : ∀ sel : DecSelector, BitVec.ofBool (sel.getLsbD 4) ++ sel.extractLsb' 0 4 = sel := by decide
    exact congrArg (fun word => some (Code.rx word b)) (hbits sel)

/-- Settles O31: the placed line selects its code in the next step, and only selector registers were written. -/
theorem placedCodeIsRunNext : Obligations.PlacedCodeIsRunNext := by
  intro s c i h
  constructor
  · rw [step_cons (placeCode_script c s), runLine_of_select_of_decode (select_placedLine h s _) h]
  · cases c <;> exact ⟨_, _, _, _, rfl⟩

end Sys2Proof.Machine
end

section
/-! The family of spec/30_encoding.md, R83, R88, R94: the payload at the request port and at the function level, and the
well-formed frames. -/

namespace Sys2Proof.Machine

/-! ### Payloads -/

/-- R94, R131: what `ENC.LOAD` writes depends on the command, the device and the payload that the request stands for. -/
theorem loadedEnc_congr {r q : EncReq} (hcmd : r.cmd = q.cmd) (hdev : r.dev = q.dev)
    (hpayload : requestPayload r = requestPayload q) : loadedEnc r = loadedEnc q := by
  simp only [loadedEnc, ← fit4_requestPayload, hcmd, hdev, hpayload]

/-- R147: two payloads cut to the same length are the same where their bytes below it are. -/
theorem take_eq_take_of_getElem? {bs cs : List Byte} {n : Nat} (h : ∀ i, i < n → bs[i]? = cs[i]?) :
    bs.take n = cs.take n := by
  apply List.ext_getElem?
  intro i
  simp only [List.getElem?_take]
  split
  · exact h i ‹_›
  · rfl

/-- Settles O7: the two requests stand for the same payload. -/
theorem unusedRequestFieldsAreIgnored : Obligations.UnusedRequestFieldsAreIgnored := by
  intro s r q hcmd hdev hlen hbytes
  have hpayload : requestPayload r = requestPayload q := by
    rw [requestPayload, requestPayload, ← hlen, take_eq_take_of_getElem? hbytes]
  simp only [exec, execEncLoad, loadedEnc_congr hcmd hdev hpayload]

/-- R88: byte `i` of the fitted sequence, with 0 where the sequence has none. -/
theorem payloadBytes_fit4_getElem? (bs : List Byte) {i : Nat} (hi : i < 4) :
    (payloadBytes (fit4 bs))[i]? = some (bs.getD i 0#8) := by
  interval_cases i <;> rfl

/-- R88: a long sequence loses the bytes after its fourth. -/
theorem fit4_take (bs : List Byte) : fit4 (bs.take 4) = fit4 bs := by
  simp [fit4, List.getD]

/-- R88, R147: a request with the first bytes of a payload and its length, saturated at 255, stands for the payload cut
after its fourth byte. -/
theorem requestPayload_eq_take {r : EncReq} {bs : List Byte} (hlen : r.plen = BitVec.ofNat 8 (min bs.length 255))
    (hbytes : ∀ i, i < min bs.length 4 → (payloadBytes r.pdata)[i]? = bs[i]?) : requestPayload r = bs.take 4 := by
  have hplen : min r.plen.toNat 4 = min bs.length 4 := by
    rw [hlen, BitVec.toNat_ofNat]
    omega
  rw [requestPayload, hplen, take_eq_take_of_getElem? hbytes, List.take_eq_take_iff]
  omega

/-- Settles O36: `fit4` byte by byte, and the port's reading as `fit4` of the payload that the request stands for. -/
theorem payloadIsPaddedAndCutAtTheEnd : Obligations.PayloadIsPaddedAndCutAtTheEnd := by
  refine ⟨fun bs => ⟨rfl, fun i hi => ?_⟩, fun r => (fit4_requestPayload r).symm, fun bs => ?_⟩
  · rw [payloadBytes_fit4_getElem? bs hi, List.getD_eq_getElem?_getD]
    split <;> simp [*]
  · have hfront : requestPayload (requestOf 0#8 bs 0#16) = bs.take 4 := by
      refine requestPayload_eq_take rfl fun i hi => ?_
      rw [requestOf, payloadBytes_fit4_getElem? bs (by omega), List.getD_eq_getElem _ _ (by omega),
        List.getElem?_eq_getElem]
    calc fitPort (BitVec.ofNat 8 (min bs.length 255)) (fit4 bs)
        = fit4 (requestPayload (requestOf 0#8 bs 0#16)) := (fit4_requestPayload (requestOf 0#8 bs 0#16)).symm
      _ = fit4 bs := by rw [hfront, fit4_take]

/-! ### Well-formed frames -/

/-- R60: a frame is its fields. -/
theorem frameBytes_inj {cmd cmd' csum csum' : Byte} {p p' : Payload} {dev dev' : DevId} :
    frameBytes cmd p dev csum = frameBytes cmd' p' dev' csum' ↔
      cmd = cmd' ∧ p = p' ∧ dev = dev' ∧ csum = csum' := by
  constructor
  · intro h
    obtain ⟨p0, p1, p2, p3⟩ := p
    simp only [frameBytes, List.cons.injEq] at h
    obtain ⟨-, hcmd, rfl, rfl, rfl, rfl, hhigh, hlow, hcsum, -⟩ := h
    exact ⟨hcmd, rfl, by rw [← devOf_high_low dev, hhigh, hlow, devOf_high_low], hcsum⟩
  · rintro ⟨rfl, rfl, rfl, rfl⟩
    rfl

/-- R160, R203: `decode` of a frame compares its checksum. -/
theorem frameDecode_frameBytes (cmd : Byte) (p : Payload) (dev : DevId) (csum : Byte) :
    frameDecode (frameBytes cmd p dev csum) =
      (if checksum (summedBytes p dev) == csum then .ok else .checksumError,
        some { cmd := cmd, p := p, dev := dev, csum := csum
               checksumOk := checksum (summedBytes p dev) == csum }) := by
  simp [frameBytes, frameDecode, summedBytes]

/-- R201, R202: what is not ten bytes between the two markers is a framing error. -/
theorem frameDecode_cases (bs : List Byte) :
    (∃ cmd p dev csum, bs = frameBytes cmd p dev csum) ∨ frameDecode bs = (.framingError, none) := by
  unfold frameDecode
  split
  next b0 b1 b2 b3 b4 b5 b6 b7 b8 b9 =>
    by_cases hmark : b0 ≠ Config.head ∨ b9 ≠ Config.tail
    · exact .inr (if_pos hmark)
    · obtain ⟨rfl, rfl⟩ : b0 = Config.head ∧ b9 = Config.tail := by simpa using hmark
      exact .inl ⟨b1, _, _, b8, ten_eq_frameBytes ..⟩
  next => exact .inr rfl

/-- R83: a well-formed frame is one that carries the checksum of its own fields. -/
theorem wellFormedFrame_iff {bs : List Byte} :
    wellFormedFrame bs = true ↔ ∃ cmd p dev, bs = frameBytes cmd p dev (checksum (summedBytes p dev)) := by
  rw [wellFormedFrame, beq_iff_eq]
  constructor
  · intro hok
    obtain ⟨cmd, p, dev, csum, rfl⟩ | hframing := frameDecode_cases bs
    · rw [frameDecode_frameBytes] at hok
      have hcsum : checksum (summedBytes p dev) = csum := by simpa using hok
      exact ⟨cmd, p, dev, by rw [hcsum]⟩
    · rw [hframing] at hok
      cases hok
  · rintro ⟨cmd, p, dev, rfl⟩
    simp [frameDecode_frameBytes]

/-- Settles O41: a well-formed frame is the encoding of its own fields, and those alone. -/
theorem wellFormedFramesAreTheEncodings : Obligations.WellFormedFramesAreTheEncodings := by
  intro bs
  rw [wellFormedFrame_iff]
  constructor
  · rintro ⟨cmd, p, dev, rfl⟩
    refine ⟨(cmd, p, dev), rfl, ?_⟩
    rintro ⟨cmd', p', dev'⟩ hbytes
    obtain ⟨rfl, rfl, rfl, -⟩ := frameBytes_inj.1 hbytes
    rfl
  · rintro ⟨⟨cmd, p, dev⟩, hbytes, -⟩
    exact ⟨cmd, p, dev, hbytes⟩

end Sys2Proof.Machine
end

section
/-! The family of spec/30_encoding.md, R99: the bytes of a block, in one step or one by one, and their result. -/

namespace Sys2Proof.Machine

/-! ### The result of a block -/

/-- R176, R182: the event of a framing error holds nothing else. -/
theorem decodeEvent_of_framingError {bs : List Byte} (h : frameDecode bs = (.framingError, none)) :
    decodeEvent bs = framingErrorResult := by
  simp [decodeEvent, h, framingErrorResult]

/-- R182: the event of a frame. -/
theorem decodeEvent_frameBytes (cmd : Byte) (p : Payload) (dev : DevId) (csum : Byte) :
    decodeEvent (frameBytes cmd p dev csum) =
      { status := if checksum (summedBytes p dev) == csum then .ok else .checksumError
        checksumOk := checksum (summedBytes p dev) == csum
        cmd := cmd, p := p, dev := dev, csum := csum, computed := checksum (summedBytes p dev) } := by
  simp [decodeEvent, frameDecode_frameBytes]

/-- R60: a frame is nine bytes and the end marker. -/
theorem concat_eq_frameBytes_iff {bs : List Byte} {b cmd csum : Byte} {p : Payload} {dev : DevId} :
    bs ++ [b] = frameBytes cmd p dev csum ↔
      bs = [Config.head, cmd, p.p0, p.p1, p.p2, p.p3, devHigh dev, devLow dev, csum] ∧ b = Config.tail :=
  List.append_singleton_inj
    (bs := [Config.head, cmd, p.p0, p.p1, p.p2, p.p3, devHigh dev, devLow dev, csum])

/-- R46(d), R173: the framing verdict says whether the bytes held and the last one are a frame. -/
theorem DecHolds.framingOk_iff {bs : List Byte} {d : DecState} (h : DecHolds bs d) (b : Byte) :
    framingOk d.idx d.ferr b = true ↔ ∃ cmd p dev csum, bs ++ [b] = frameBytes cmd p dev csum := by
  rw [Machine.framingOk_iff]
  constructor
  · rintro ⟨hidx, hferr, rfl⟩
    have hlen : bs.length = 9 := (h.idx_eq_iff (by omega)).1 (by rw [hidx]; rfl)
    match bs, hlen with
    | [b0, b1, b2, b3, b4, b5, b6, b7, b8], _ =>
      obtain rfl : b0 = Config.head := by simpa [hferr] using h.ferr
      exact ⟨b1, _, _, b8, ten_eq_frameBytes ..⟩
  · rintro ⟨cmd, p, dev, csum, hbytes⟩
    obtain ⟨rfl, rfl⟩ := concat_eq_frameBytes_iff.1 hbytes
    exact ⟨BitVec.eq_of_toNat_eq h.idx, h.ferr, rfl⟩

/-- R173 to R176, R182: the byte with `rx_last` brings what `decode` gives for the whole block. -/
theorem DecHolds.blockResult_eq_decodeEvent {bs : List Byte} {d : DecState} (h : DecHolds bs d) (b : Byte) :
    blockResult d b = decodeEvent (bs ++ [b]) := by
  by_cases hok : framingOk d.idx d.ferr b = true
  · obtain ⟨cmd, p, dev, csum, hbytes⟩ := (h.framingOk_iff b).1 hok
    obtain ⟨rfl, rfl⟩ := concat_eq_frameBytes_iff.1 hbytes
    have hcmd : d.cmd = cmd := h.cmd
    have hp : d.p = p := h.p
    have hdev : d.dev = dev := h.dev.trans (devOf_high_low dev)
    have hcsrx : d.csrx = csum := h.csrx
    have hacc : d.acc = checksum (summedBytes p dev) := h.acc
    simp [hbytes, decodeEvent_frameBytes, blockResult_of_framingOk hok, hcmd, hp, hdev, hcsrx, hacc]
  · have hframing : frameDecode (bs ++ [b]) = (.framingError, none) :=
      (frameDecode_cases _).resolve_left fun hframe => hok ((h.framingOk_iff b).2 hframe)
    rw [decodeEvent_of_framingError hframing]
    simp [blockResult, hok]

/-- R182: a block, after bytes that are open already, gives the one result of `decode` of all of them. -/
theorem DecHolds.decBlock_resLog {held : List Byte} {s : State} (h : DecHolds held s.dec) (b : Byte) (bs : List Byte) :
    (decBlock (b :: bs) s).env.resLog = s.env.resLog ++ [decodeEvent (held ++ b :: bs)] := by
  induction bs generalizing held b s with
  | nil => exact congrArg (s.env.resLog ++ [·]) (h.blockResult_eq_decodeEvent b)
  | cons b' bs ih =>
    rw [decBlock_cons, ih (h.concat b), List.append_assoc]
    rfl

/-- R84, R99: between two blocks a frame of any kind gives the result of `decode` and leaves the rest as it was. -/
theorem receiveFrame_of_reset {s : State} (h : s.dec = DecState.reset) (cmd : Byte) (p : Payload) (dev : DevId)
    (csum : Byte) :
    (receiveFrame cmd p dev csum s).enc = s.enc ∧ (receiveFrame cmd p dev csum s).dec = s.dec ∧
    (receiveFrame cmd p dev csum s).env.txLog = s.env.txLog ∧
    (receiveFrame cmd p dev csum s).env.script = s.env.script ∧
    (receiveFrame cmd p dev csum s).env.wired = s.env.wired ∧
    (receiveFrame cmd p dev csum s).env.resLog = s.env.resLog ++ [decodeEvent (frameBytes cmd p dev csum)] := by
  obtain ⟨henc, htx, hscript, hwired⟩ := decBlock_frame (frameBytes cmd p dev csum) s
  have hdec : (receiveFrame cmd p dev csum s).dec = DecState.reset := decBlock_dec _ _ s
  exact ⟨henc, hdec.trans h.symm, htx, hscript, hwired, (decHolds_nil_iff.2 h).decBlock_resLog _ _⟩

/-- Settles O26: every kind is the block of the frame's ten bytes. -/
theorem frameKindsGiveTheResultOfDecode : Obligations.FrameKindsGiveTheResultOfDecode :=
  fun _ cmd p dev csum h =>
    ⟨⟨_, rfl, receiveFrame_of_reset h Config.cmdOut p dev csum⟩,
      ⟨_, rfl, receiveFrame_of_reset h Config.cmdSample p dev csum⟩,
      ⟨_, rfl, receiveFrame_of_reset h Config.cmdAck p dev csum⟩,
      ⟨_, rfl, receiveFrame_of_reset h cmd p dev csum⟩⟩

/-! ### The lines of a block -/

/-- R99: the run of the bytes' lines is the block. -/
theorem steps_decodeLines (bs : List Byte) (s : State) (rest : List Line) :
    steps bs.length (s.withScript (decodeLines bs ++ rest)) = .next (decBlock bs (s.withScript rest)) := by
  induction bs, s using decBlock.induct with
  | case1 s => rfl
  | case2 b s => exact steps_line rfl (runLine_rx b true _)
  | case3 b b' bs s ih => exact (steps_line rfl (runLine_rx b false _)).trans ih

/-- Settles O57: the block line and its bytes' lines both run the block. -/
theorem blockLineEqualsItsByteLines : Obligations.BlockLineEqualsItsByteLines := by
  intro s bs rest hbs
  obtain ⟨b, bs, rfl⟩ := List.exists_cons_of_ne_nil hbs
  rw [steps_decodeLines, step_cons rfl]
  exact runLine_block b bs _

end Sys2Proof.Machine
end

section
/-! The family of spec/30_encoding.md, R99: the scripts of `ENCODE` and `DECODE`, with lines of the other agent
between. -/

namespace Sys2Proof.Machine

/-! ### A script, line by line -/

/-- A relation between the lines to come and the state, whatever the state's own script, that every line but RESET can
go on from and keeps, holds at the end of an unwired script without RESET. -/
theorem steps_script {P : List Line → State → Prop} (hscript : ∀ ls s sc, P ls s → P ls (s.withScript sc))
    (hline : ∀ l ls s, rstLine l = false → P (l :: ls) s → ∃ t, runLine l s = .next t ∧ P ls t)
    {lines rest : List Line} {s : State} (hrst : ∀ l ∈ lines, rstLine l = false) (hw : s.env.wired = false)
    (hs : s.env.script = lines ++ rest) (h : P lines s) :
    ∃ t, steps lines.length s = .next t ∧ P [] t ∧ t.env.script = rest := by
  induction lines generalizing s with
  | nil => exact ⟨s, rfl, h, hs⟩
  | cons l lines ih =>
    obtain ⟨hl, hls⟩ := List.forall_mem_cons.1 hrst
    obtain ⟨t, hrun, hnext⟩ := hline l lines _ hl (hscript _ s (lines ++ rest) h)
    obtain ⟨hscript', hwired⟩ := runLine_unwired (s := s.withScript (lines ++ rest)) hw hrun
    obtain ⟨u, hrest, hend⟩ := ih hls hwired hscript' hnext
    exact ⟨u, (steps_line hs hrun).trans hrest, hend⟩

/-- R98: a line that is not a RESET concerns one agent. -/
theorem encLine_eq_not_decLine {l : Line} (h : rstLine l = false) : encLine l = !decLine l := by
  match l, h with
  | .port (.encReq _), _ | .port .tx, _ | .port (.rx _ _), _ | .block _, _ => rfl

/-- R69(d): a line of DEC goes on and leaves ENC and its trace. -/
theorem runLine_decLine {l : Line} (hl : decLine l = true) (s : State) :
    ∃ t, runLine l s = .next t ∧ encTrace t = encTrace s := by
  obtain ⟨act, hact⟩ := decLine_acts hl
  exact ⟨_, hact s, encTrace_decActs _ s⟩

/-! ### ENCODE -/

/-- R99, R147: `ENCODE` of the request `r` in progress: the lines of ENC to come, and ENC's registers and trace, where
the trace was `log` before the request. -/
inductive Encoding (r : EncReq) (log : List TxEvent) : List Line → EncState × List TxEvent → Prop
  | waiting {e : EncState} (idle : e.busy = false) : Encoding r log (encodeLines r) (e, log)
  | sending {e : EncState} {sent : List TxEvent} {n : Nat} (inv : EncInv e) (busy : e.busy = true)
      (count : e.idx.toNat + n = 9) (image : encImage e = encImage (loadedEnc r))
      (trace : sent = log ++ ((encImage (loadedEnc r)).take e.idx.toNat).map (fun b => ⟨b, false⟩)) :
      Encoding r log (List.replicate (n + 1) (.port .tx)) (e, sent)
  | done {sent : List TxEvent} (trace : sent = log ++ frameEvents (frameEncode r.cmd (requestPayload r) r.dev)) :
      Encoding r log [] (EncState.reset, sent)

section Encode
variable {r : EncReq} {log : List TxEvent} {s : State}

/-- R131: an idle encoder takes the request, and no byte of it is out yet. -/
theorem Encoding.of_request (hidle : s.enc.busy = false) :
    ∃ t, Machine.runLine (.port (.encReq r)) s = .next t ∧
      Encoding r s.env.txLog (List.replicate 10 (.port .tx)) (encTrace t) := by
  have hload : Machine.runLine (.port (.encReq r)) s = .next (s.setEnc (loadedEnc r)) := by
    rw [runLine_encReq, hidle]
    rfl
  exact ⟨_, hload, .sending (encInv_loadedEnc r) rfl rfl rfl (List.append_nil _).symm⟩

/-- R69(b), R132, R143: one byte goes out, the next one of the image or, after those, the end marker. -/
theorem Encoding.of_emit {n : Nat} (inv : EncInv s.enc) (busy : s.enc.busy = true) (count : s.enc.idx.toNat + n = 9)
    (image : encImage s.enc = encImage (loadedEnc r))
    (trace : s.env.txLog = log ++ ((encImage (loadedEnc r)).take s.enc.idx.toNat).map (fun b => ⟨b, false⟩)) :
    ∃ t, Machine.runLine (.port .tx) s = .next t ∧ Encoding r log (List.replicate n (.port .tx)) (encTrace t) := by
  obtain ⟨b, hread, hemit⟩ := runLine_tx_busy busy inv.idx_le
  refine ⟨_, hemit, ?_⟩
  cases n with
  | zero =>
    have hnine : s.enc.idx = 9#4 := BitVec.eq_of_toNat_eq count
    obtain rfl : Config.tail = b := by
      rw [hnine, memReadEncF_eq_frameBytes busy] at hread
      exact Option.some.inj hread
    rw [hnine] at trace ⊢
    refine .done ?_
    rw [frameEncode_request, frameEvents_encImage, ← List.append_assoc]
    exact congrArg (· ++ [⟨Config.tail, true⟩]) trace
  | succ n =>
    have hlt : s.enc.idx.toNat < 9 := by omega
    have hidx := encAfter_idx hlt b
    have hnext := inv.take_encImage_succ busy hlt hread
    rw [image] at hnext
    have hcount : (encAfter s.enc.idx b s.enc).idx.toNat + n = 9 := by omega
    refine .sending (inv.encAfter busy hread) ((encAfter_busy hlt b).trans busy) hcount
      ((encImage_encAfter hlt b).trans image) ?_
    simp only [sendTx_enc, setEnc_enc, sendTx_txLog, setEnc_env]
    rw [hidx, hnext, List.map_append, ← List.append_assoc, ← trace, txLast_of_lt hlt]
    rfl

/-- R131, R132, R143: each line of `ENCODE` takes it one line further. -/
theorem Encoding.runLine {l : Line} {ls : List Line} (h : Encoding r log (l :: ls) (encTrace s)) :
    ∃ t, Machine.runLine l s = .next t ∧ Encoding r log ls (encTrace t) := by
  generalize hls : l :: ls = all, htrace : encTrace s = tr at h
  cases h with
  | waiting idle => cases htrace; cases hls; exact Encoding.of_request idle
  | sending inv busy count image trace => cases htrace; cases hls; exact Encoding.of_emit inv busy count image trace
  | done => cases hls

/-- R146, R147: `ENCODE` goes on through a line of its own and through one of DEC. -/
theorem Encoding.runLine_filter {l : Line} {ls : List Line}
    (hrst : rstLine l = false) (h : Encoding r log ((l :: ls).filter encLine) (encTrace s)) :
    ∃ t, Machine.runLine l s = .next t ∧ Encoding r log (ls.filter encLine) (encTrace t) := by
  have hagent := encLine_eq_not_decLine hrst
  cases hdec : decLine l with
  | true =>
    obtain ⟨t, hrun, htrace⟩ := runLine_decLine hdec s
    rw [List.filter_cons_of_neg (by simp [hagent, hdec]), ← htrace] at h
    exact ⟨t, hrun, h⟩
  | false =>
    rw [List.filter_cons_of_pos (by simp [hagent, hdec])] at h
    exact h.runLine

/-- R147: with no line of `ENCODE` to come the frame is out. -/
theorem Encoding.of_nil {v : EncState × List TxEvent} (h : Encoding r log [] v) :
    v = (EncState.reset, log ++ frameEvents (frameEncode r.cmd (requestPayload r) r.dev)) := by
  cases h with
  | done trace => rw [trace]

end Encode

/-! ### DECODE -/

/-- R69(d): where R45 holds, a line of ENC goes on and leaves DEC and its trace. -/
theorem runLine_encLine {l : Line} (hl : encLine l = true) {s : State} (henc : EncInv s.enc) :
    ∃ t, runLine l s = .next t ∧ decTrace t = decTrace s := by
  obtain ⟨t, hrun⟩ := henc.runLine_next l
  exact ⟨t, hrun, decTrace_of_encLine hl hrun⟩

/-- R99, R182: `DECODE` of the block `bs` in progress: the lines of DEC to come, and DEC's registers and results, where
the results were `log` before the block. -/
inductive Decoding (bs : List Byte) (log : List ResEvent) : List Line → DecState × List ResEvent → Prop
  | receiving {held : List Byte} {b : Byte} {more : List Byte} {d : DecState} (holds : DecHolds held d)
      (block : held ++ b :: more = bs) : Decoding bs log (decodeLines (b :: more)) (d, log)
  | done : Decoding bs log [] (DecState.reset, log ++ [decodeEvent bs])

section Decode
variable {bs : List Byte} {log : List ResEvent} {s : State}

/-- R161, R177: each line of `DECODE` takes it one line further. -/
theorem Decoding.runLine {l : Line} {ls : List Line} (h : Decoding bs log (l :: ls) (decTrace s)) :
    ∃ t, Machine.runLine l s = .next t ∧ Decoding bs log ls (decTrace t) := by
  generalize hls : l :: ls = all, htrace : decTrace s = tr at h
  cases h with
  | @receiving held b more _ holds block =>
    cases htrace
    cases more with
    | nil =>
      cases hls
      refine ⟨_, runLine_rx b true s, ?_⟩
      have hlog : (decByte b true s).env.resLog = s.env.resLog ++ [decodeEvent bs] := by
        rw [← block]
        exact holds.decBlock_resLog b []
      rw [decTrace, hlog]
      exact .done
    | cons b' more =>
      cases hls
      exact ⟨_, runLine_rx b false s, .receiving (holds.concat b) (by rw [← block, List.append_assoc]; rfl)⟩
  | done => cases hls

/-- R181, R182: `DECODE` goes on through a line of its own and, where R45 holds, through one of ENC. -/
theorem Decoding.runLine_filter {l : Line} {ls : List Line} (hrst : rstLine l = false) (henc : EncInv s.enc)
    (h : Decoding bs log ((l :: ls).filter decLine) (decTrace s)) :
    ∃ t, Machine.runLine l s = .next t ∧ Decoding bs log (ls.filter decLine) (decTrace t) := by
  have hagent := encLine_eq_not_decLine hrst
  cases hdec : decLine l with
  | true =>
    rw [List.filter_cons_of_pos hdec] at h
    exact h.runLine
  | false =>
    obtain ⟨t, hrun, htrace⟩ := runLine_encLine (l := l) (by simp [hagent, hdec]) henc
    rw [List.filter_cons_of_neg (by simp [hdec]), ← htrace] at h
    exact ⟨t, hrun, h⟩

/-- R182: with no line of `DECODE` to come the block is reported. -/
theorem Decoding.of_nil {v : DecState × List ResEvent} (h : Decoding bs log [] v) :
    v = (DecState.reset, log ++ [decodeEvent bs]) := by
  generalize hls : [] = ls at h
  cases h with
  | @receiving _ b more _ _ _ => cases more <;> cases hls
  | done => rfl

end Decode

/-! ### The statements -/

/-- Settles O54: `ENCODE` through the script, line by line; the port form keeps the first four bytes of a payload. -/
theorem encodeLinesEmitTheFrame : Obligations.EncodeLinesEmitTheFrame := by
  constructor
  · intro s r lines rest hidle hw hs hrst hlines
    obtain ⟨t, hrun, hend, hscript⟩ := steps_script
      (P := fun ls u => Encoding r s.env.txLog (ls.filter encLine) (encTrace u)) (fun _ _ _ h => h)
      (fun _ _ _ hl h => h.runLine_filter hl) hrst hw hs (by rw [hlines]; exact .waiting hidle)
    obtain ⟨henc, htx⟩ := Prod.mk.inj hend.of_nil
    exact ⟨t, hrun, henc, hscript, htx⟩
  · intro cmd payload dev pdata hbytes r hr
    have hfront : requestPayload r = payload.take 4 := requestPayload_eq_take (by rw [hr]) (by rwa [hr])
    rw [frameEncode, hfront, fit4_take, frameEncode]

/-- Settles O55: `DECODE` through the script, line by line, R45 kept by the lines of ENC between. -/
theorem decodeLinesReportTheBlock : Obligations.DecodeLinesReportTheBlock := by
  intro s bs lines rest hne hinv hidx hw hs hrst hlines
  obtain ⟨henc, held, hheld⟩ := hinv
  obtain rfl : held = [] := List.eq_nil_of_length_eq_zero ((hheld.idx_eq_iff (by omega)).1 (by rw [hidx]; rfl))
  obtain ⟨b, more, rfl⟩ := List.exists_cons_of_ne_nil hne
  obtain ⟨t, hrun, ⟨-, hend⟩, hscript⟩ := steps_script
    (P := fun ls u => EncInv u.enc ∧ Decoding (b :: more) s.env.resLog (ls.filter decLine) (decTrace u))
    (fun _ _ _ h => h)
    (fun _ _ _ hl ⟨hu, h⟩ => by
      obtain ⟨t, hrun, ht⟩ := h.runLine_filter hl hu
      exact ⟨t, hrun, hu.runLine hrun, ht⟩)
    hrst hw hs ⟨henc, by rw [hlines]; exact .receiving hheld rfl⟩
  obtain ⟨hdec, hres⟩ := Prod.mk.inj hend.of_nil
  exact ⟨t, hrun, hdec, hscript, hres⟩

end Sys2Proof.Machine
end

section
/-! The family of spec/40_checksum.md: the sum modulo 256, what it tells of a frame's bytes, and the unit CSUM. -/

namespace Sys2Proof.Machine

/-! ### The sum -/

/-- R110, R111: the checksum is the library's sum in the ring of bytes, so that the laws of a sum are its own. -/
theorem checksum_eq_sum (bs : List Byte) : checksum bs = bs.sum := by
  induction bs using List.reverseRecOn with
  | nil => rfl
  | append_singleton bs b ih => rw [checksum_concat, ih, List.sum_append, List.sum_singleton]

/-- R111(c): the checksum does not see the order of the bytes. -/
theorem checksum_perm {bs cs : List Byte} (h : bs.Perm cs) : checksum bs = checksum cs := by
  rw [checksum_eq_sum, checksum_eq_sum, h.sum_eq]

/-- R118(b): the checksum does not see a change that leaves the exact sum modulo 256. -/
theorem checksum_eq_of_sum_mod_eq {bs cs : List Byte}
    (h : (bs.map BitVec.toNat).sum % 256 = (cs.map BitVec.toNat).sum % 256) : checksum bs = checksum cs := by
  apply BitVec.eq_of_toNat_eq
  rw [checksum_toNat, checksum_toNat, h]

/-- R117: a byte that is replaced by another one changes the checksum, for its difference is not 0 modulo 256. -/
theorem checksum_set_ne {bs : List Byte} {k : Nat} {b : Byte} (hk : k < bs.length) (hb : bs[k] ≠ b) :
    checksum (bs.set k b) ≠ checksum bs := by
  rw [checksum_eq_sum, checksum_eq_sum, List.sum_set', dif_pos hk]
  intro hsame
  have hdiff : -bs[k] + b = 0 := add_eq_left.1 hsame
  exact hb (neg_add_eq_zero.1 hdiff)

/-- Settles O35: the fold's value and its order, each a law of the sum. -/
theorem checksumIsTheSumModulo256 : Obligations.ChecksumIsTheSumModulo256 :=
  ⟨checksum_toNat, fun _ _ h => checksum_perm h⟩

/-! ### A block of ten bytes, by its six summed bytes -/

/-- R202 to R204: the status of ten bytes, the markers looked at before the checksum. -/
theorem frameDecode_status {mid : List Byte} (hmid : mid.length = 6) (head cmd csum tail : Byte) :
    (frameDecode (head :: cmd :: (mid ++ [csum, tail]))).1 =
      if head ≠ Config.head ∨ tail ≠ Config.tail then .framingError
      else if checksum mid = csum then .ok else .checksumError := by
  match mid, hmid with
  | [b2, b3, b4, b5, b6, b7], _ =>
    simp only [List.cons_append, List.nil_append, frameDecode, beq_iff_eq]
    split <;> rfl

/-- R83: ten bytes are a well-formed frame where the markers and the checksum of the six bytes are right. -/
theorem wellFormedFrame_ten {mid : List Byte} (hmid : mid.length = 6) (head cmd csum tail : Byte) :
    wellFormedFrame (head :: cmd :: (mid ++ [csum, tail])) = true ↔
      head = Config.head ∧ tail = Config.tail ∧ checksum mid = csum := by
  rw [wellFormedFrame, beq_iff_eq, frameDecode_status hmid]
  split
  case isTrue hmark => exact iff_of_false nofun fun ⟨hhead, htail, _⟩ => hmark.elim (· hhead) (· htail)
  case isFalse hmark =>
    obtain ⟨rfl, rfl⟩ : head = Config.head ∧ tail = Config.tail := by simpa using hmark
    simp

/-- R203: between the markers, a wrong checksum byte is a checksum error. -/
theorem frameDecode_status_mismatch {mid : List Byte} (hmid : mid.length = 6) (cmd : Byte) {csum : Byte}
    (hcsum : checksum mid ≠ csum) :
    (frameDecode (Config.head :: cmd :: (mid ++ [csum, Config.tail]))).1 = .checksumError := by
  rw [frameDecode_status hmid, if_neg (by simp), if_neg hcsum]

/-- Settles O37: a changed checksum byte differs from the sum it was, a changed summed byte changes the sum. -/
theorem singleByteChangeIsReported : Obligations.SingleByteChangeIsReported := by
  intro bs k b hwf h2 h8 hne
  obtain ⟨cmd, p, dev, rfl⟩ := wellFormedFrame_iff.1 hwf
  have hmid : (summedBytes p dev).length = 6 := rfl
  have hframe : frameBytes cmd p dev (checksum (summedBytes p dev)) =
      Config.head :: cmd :: (summedBytes p dev ++ [checksum (summedBytes p dev), Config.tail]) := rfl
  obtain ⟨j, rfl⟩ : ∃ j, k = j + 2 := ⟨k - 2, by omega⟩
  rw [hframe] at hne ⊢
  generalize summedBytes p dev = mid at hmid hne ⊢
  simp only [List.set_cons_succ, List.getElem?_cons_succ] at hne ⊢
  obtain rfl | hj : j = 6 ∨ j < mid.length := by omega
  · rw [List.set_append_right _ _ hmid.le, hmid]
    rw [List.getElem?_append_right hmid.le, hmid] at hne
    exact frameDecode_status_mismatch hmid cmd fun hsame => hne (congrArg some hsame)
  · rw [List.set_append_left _ _ hj]
    rw [List.getElem?_append_left hj, List.getElem?_eq_getElem hj] at hne
    have hbyte : mid[j] ≠ b := fun hsame => hne (congrArg some hsame)
    exact frameDecode_status_mismatch (by rw [List.length_set, hmid]) cmd (checksum_set_ne hj hbyte)

/-- Settles O38: what is not summed, or leaves the sum, leaves the frame well-formed; the markers do not. -/
theorem undetectedChanges : Obligations.UndetectedChanges := by
  intro h c b2 b3 b4 b5 b6 b7 k t hwf
  obtain ⟨rfl, rfl, hsum⟩ := (wellFormedFrame_ten (mid := [b2, b3, b4, b5, b6, b7]) rfl h c k t).1 hwf
  have hkept : ∀ c' c2 c3 c4 c5 c6 c7 : Byte,
      checksum [c2, c3, c4, c5, c6, c7] = checksum [b2, b3, b4, b5, b6, b7] →
      wellFormedFrame [Config.head, c', c2, c3, c4, c5, c6, c7, k, Config.tail] = true :=
    fun c' c2 c3 c4 c5 c6 c7 hsame =>
      (wellFormedFrame_ten (mid := [c2, c3, c4, c5, c6, c7]) rfl ..).2 ⟨rfl, rfl, hsame.trans hsum⟩
  refine ⟨fun c' => hkept c' _ _ _ _ _ _ rfl, fun c2 c3 c4 c5 c6 c7 hmod => ?cancel,
    fun c2 c3 c4 c5 c6 c7 hperm => hkept c _ _ _ _ _ _ (checksum_perm hperm),
    fun h' hhead => ?head, fun t' htail => ?tail⟩
  case cancel =>
    refine hkept c _ _ _ _ _ _ (checksum_eq_of_sum_mod_eq ?_)
    simpa only [List.map_cons, List.map_nil, List.sum_cons, List.sum_nil, add_zero, add_assoc] using hmod
  case head =>
    exact (frameDecode_status (mid := [b2, b3, b4, b5, b6, b7]) rfl ..).trans (if_pos (.inl hhead))
  case tail =>
    exact (frameDecode_status (mid := [b2, b3, b4, b5, b6, b7]) rfl ..).trans (if_pos (.inr htail))

/-! ### The unit CSUM -/

/-- R112: CSUM.CLR writes 0 to its unit's accumulator. -/
theorem exec_csumClr (u : CsumUnit) (s : State) : exec (.csumClr u) s = .next (setCsumAcc u 0#8 s) := rfl

/-- R113: CSUM.ADD is addition of bytes on its unit's accumulator. -/
theorem exec_csumAdd (u : CsumUnit) (b : Byte) (s : State) :
    exec (.csumAdd u b) s = .next (setCsumAcc u (csumAcc u s + b) s) := by
  rw [← csumSum_eq_add]
  rfl

/-- R114: CSUM.CMP keeps whether its unit's accumulator is the operand. -/
theorem exec_csumCmp (u : CsumUnit) (c : Byte) (s : State) :
    exec (.csumCmp u c) s = .next (setCmp (decide (csumAcc u s = c)) s) := rfl

/-- Settles O3: the write of 0, in each unit. -/
theorem csumClrZeroesTheAccumulator : Obligations.CsumClrZeroesTheAccumulator :=
  fun s => ⟨exec_csumClr .enc s, exec_csumClr .dec s⟩

/-- Settles O4: the sum of the bytes, in each unit. -/
theorem csumAddIsAdditionModulo256 : Obligations.CsumAddIsAdditionModulo256 :=
  fun s b => ⟨⟨_, BitVec.toNat_add _ _, exec_csumAdd .enc b s⟩, ⟨_, BitVec.toNat_add _ _, exec_csumAdd .dec b s⟩⟩

/-- Settles O5: the comparison with the accumulator, in each unit. -/
theorem csumCmpComparesTheAccumulator : Obligations.CsumCmpComparesTheAccumulator :=
  fun s c => ⟨exec_csumCmp .enc c s, exec_csumCmp .dec c s⟩

end Sys2Proof.Machine
end

section
/-! The family of spec/41_encoder.md: `ENC.LOAD`, the sub-cases of `ENC.EMIT`, the step on a `tx` event, and `encode`. -/

namespace Sys2Proof.Machine

/-! ### ENC.LOAD -/

/-- R131: an idle encoder is loaded. -/
theorem exec_encLoad_idle {s : State} (hidle : s.enc.busy = false) (r : EncReq) :
    exec (.encLoad r) s = .next (s.setEnc (loadedEnc r)) := by
  simp [exec, execEncLoad, hidle]

/-- R133: a busy encoder is left as it is. -/
theorem exec_encLoad_busy {s : State} (hbusy : s.enc.busy = true) (r : EncReq) :
    exec (.encLoad r) s = .next s := by
  simp [exec, execEncLoad, hbusy]

/-- Settles O6: the load, register by register. -/
theorem encLoadTakesTheRequest : Obligations.EncLoadTakesTheRequest :=
  fun _ r hidle => exec_encLoad_idle hidle r

/-- Settles O8: the operation and the line, each under a guard that is false. -/
theorem requestWhileBusyIsNotAccepted : Obligations.RequestWhileBusyIsNotAccepted := by
  intro s r hbusy
  refine ⟨exec_encLoad_busy hbusy r, fun rest hscript => ?_⟩
  rw [step_cons hscript, runLine_encReq]
  exact congrArg _ (if_pos hbusy)

/-! ### A sub-case of ENC.EMIT at its own index -/

section SubCase
variable {i : Instr} {s : State} (k : Idx) (b : Byte)

/-- R134, R135, R142: a byte that is not summed goes out, and of the registers only the index advances. -/
theorem exec_of_emitPlain (hexec : exec i s = .next (encAt k (emitPlain k b) s)) (hbusy : s.enc.busy = true)
    (hidx : s.enc.idx = k) :
    exec i s = .next { s with enc := { s.enc with idx := k + 1#4 }, env := afterTx b false s.env } := by
  rw [hexec, encAt_self _ hbusy hidx]
  rfl

/-- R136 to R141: a summed byte goes out, is added to the accumulator, and the index advances. -/
theorem exec_of_emitSummed (hexec : exec i s = .next (encAt k (emitSummed k b) s)) (hbusy : s.enc.busy = true)
    (hidx : s.enc.idx = k) :
    exec i s = .next
      { s with enc := { s.enc with acc := s.enc.acc + b, idx := k + 1#4 }, env := afterTx b false s.env } := by
  rw [hexec, encAt_self _ hbusy hidx, ← csumSum_eq_add]
  rfl

end SubCase

/-- R143: the end marker goes out, marked last, and the registers are reset. -/
theorem exec_encEmitTail {s : State} (hbusy : s.enc.busy = true) (hidx : s.enc.idx = 9#4) :
    exec .encEmitTail s = .next { s with enc := EncState.reset, env := afterTx Config.tail true s.env } := by
  rw [exec, execEncEmitTail, encAt_self _ hbusy hidx]
  rfl

/-- Settles O9: two bytes that are not summed; at index 0 nothing is summed yet. -/
theorem emitHeadAndCommand : Obligations.EmitHeadAndCommand := by
  intro s hbusy
  refine ⟨fun hidx => ⟨exec_of_emitPlain 0#4 Config.head rfl hbusy hidx, fun hinv => ?_⟩,
    exec_of_emitPlain 1#4 s.enc.cmd rfl hbusy⟩
  rw [hinv.acc hbusy, hidx]
  rfl

/-- Settles O10: six bytes that are summed. -/
theorem emitSummedBytes : Obligations.EmitSummedBytes := by
  intro s hbusy
  exact ⟨exec_of_emitSummed 2#4 s.enc.p.p0 rfl hbusy, exec_of_emitSummed 3#4 s.enc.p.p1 rfl hbusy,
    exec_of_emitSummed 4#4 s.enc.p.p2 rfl hbusy, exec_of_emitSummed 5#4 s.enc.p.p3 rfl hbusy,
    exec_of_emitSummed 6#4 (devHigh s.enc.dev) rfl hbusy, exec_of_emitSummed 7#4 (devLow s.enc.dev) rfl hbusy⟩

/-- R110: the checksum of a frame is the sum of its six bytes at offsets 2 to 7. -/
theorem checksum_summedBytes (p : Payload) (dev : DevId) :
    checksum (summedBytes p dev) = p.p0 + p.p1 + p.p2 + p.p3 + devHigh dev + devLow dev := by
  simp [checksum, summedBytes]

/-- Settles O11: a byte that is not summed; at index 8 the accumulator holds the sum of all six bytes. -/
theorem emitChecksumByte : Obligations.EmitChecksumByte := by
  intro s hbusy hidx
  refine ⟨exec_of_emitPlain 8#4 s.enc.acc rfl hbusy hidx, fun hinv => ?_⟩
  have hacc := hinv.acc hbusy
  rw [hidx] at hacc
  exact hacc.trans (checksum_summedBytes s.enc.p s.enc.dev)

/-! ### Which operations give a `tx` event -/

/-- R96: the rows with an `ENC.IDX` selector are the sub-cases of `ENC.EMIT`, each with the guard of its own index. -/
theorem exec_of_encode_tx {i : Instr} {k : Idx} (henc : encode i = some (.tx k)) :
    k.toNat ≤ 9 ∧ decode (.tx k) = .ok i ∧ ∃ f : State → State → State, ∀ s, exec i s = .next (encAt k (f s) s) := by
  cases i with
  | encEmitHead | encEmitCmd | encEmitP0 | encEmitP1 | encEmitP2 | encEmitP3 | encEmitDevh | encEmitDevl
  | encEmitCsum | encEmitTail => cases henc; exact ⟨by decide, rfl, _, fun _ => rfl⟩
  | _ => cases henc

/-- R36: an operation that is no `ENC.EMIT` gives no `tx` event. -/
theorem exec_txLog_of_encode_ne_tx {i : Instr} {s t : State} (hne : ∀ k, encode i ≠ some (.tx k))
    (h : exec i s = .next t) : t.env.txLog = s.env.txLog := by
  cases hdec : decOp i with
  | true =>
    obtain ⟨act, hact⟩ := actsOnDec_of_decOp hdec
    rw [hact] at h
    cases h
    exact decActs_txLog _ s
  | false =>
    cases i with
    | reset => cases h; rfl
    | encLoad r => cases h; split <;> rfl
    | csumClr u | csumAdd u _ => cases h; cases u <;> rfl
    | csumCmp u _ => cases h; rfl
    | encEmitHead | encEmitCmd | encEmitP0 | encEmitP1 | encEmitP2 | encEmitP3 | encEmitDevh | encEmitDevl
    | encEmitCsum | encEmitTail => exact absurd rfl (hne _)
    | _ => cases hdec

/-- R36, R132: an operation leaves the `tx` trace, or it is the sub-case of `ENC.EMIT` that `ENC.IDX` selects and gives
the frame image's byte there. -/
theorem exec_txLog_cases {i : Instr} {s t : State} (h : exec i s = .next t) :
    t.env.txLog = s.env.txLog ∨
    ∃ b, s.enc.busy = true ∧ decode (.tx s.enc.idx) = .ok i ∧ memReadEncF s.enc s.enc.idx = some b ∧
      t.env.txLog = s.env.txLog ++ [⟨b, txLast s.enc.idx⟩] := by
  by_cases hemit : ∃ k, encode i = some (.tx k)
  case neg => exact .inl (exec_txLog_of_encode_ne_tx (not_exists.1 hemit) h)
  case pos =>
    obtain ⟨k, henc⟩ := hemit
    obtain ⟨hk, hdec, f, hexec⟩ := exec_of_encode_tx henc
    by_cases hat : s.enc.busy = true ∧ s.enc.idx = k
    · obtain ⟨hbusy, rfl⟩ := hat
      obtain ⟨b, hread, hrun⟩ := runLine_tx_busy hbusy hk
      have hsel : select (.port .tx) s = some (.tx s.enc.idx) := by simp [select, hbusy]
      rw [← runLine_of_select_of_decode hsel hdec, hrun] at h
      cases h
      exact .inr ⟨b, hbusy, hdec, hread, rfl⟩
    · rw [hexec, encAt, if_neg hat] at h
      cases h
      exact .inl rfl

/-- Settles O12: the end marker and the reset; a byte marked last is the one at index 9, which selects EMIT.TAIL. -/
theorem emitTailClearsTheEncoder : Obligations.EmitTailClearsTheEncoder := by
  refine ⟨fun s hbusy hidx => ⟨_, exec_encEmitTail hbusy hidx, rfl, fun r => ⟨_, exec_encLoad_idle rfl r, rfl⟩⟩,
    fun i s t b hexec hlog => ?_⟩
  obtain hkept | ⟨c, hbusy, hdec, hread, hsent⟩ := exec_txLog_cases hexec
  · rw [hkept] at hlog
    simp at hlog
  · obtain ⟨rfl, hlast⟩ : c = b ∧ txLast s.enc.idx = true := by simpa [hsent] using hlog
    have hidx : s.enc.idx = 9#4 := of_decide_eq_true hlast
    rw [hidx] at hdec
    rw [hidx, memReadEncF_eq_frameBytes hbusy] at hread
    cases hdec
    cases hread
    exact ⟨rfl, rfl, hidx⟩

/-! ### The step on a `tx` event, and the index -/

/-- R132: the registers after a byte, the accumulator by the range of the summed offsets. -/
theorem encAfter_eq (k : Idx) (b : Byte) (e : EncState) :
    encAfter k b e = if k = 9#4 then EncState.reset
      else { e with acc := if 2 ≤ k.toNat ∧ k.toNat ≤ 7 then e.acc + b else e.acc, idx := k + 1#4 } := by
  simp only [encAfter, summedOffset_iff, csumSum_eq_add]

/-- Settles O13: the line of a `tx` event, idle and busy. -/
theorem emitStepIsTheCommonPart : Obligations.EmitStepIsTheCommonPart := by
  intro s rest hscript
  rw [step_cons hscript]
  refine ⟨fun hidle => runLine_tx_idle hidle, fun hbusy hle => ?_⟩
  obtain ⟨b, hread, hrun⟩ := runLine_tx_busy (s := s.withScript rest) hbusy hle
  refine ⟨b, hread, ?_⟩
  rw [hrun, encAfter_eq]
  rfl

/-- R144: the index after a byte. -/
theorem encAfter_nextIdx (k : Idx) (b : Byte) (e : EncState) :
    (encAfter k b e).idx = if k = 9#4 then 0#4 else k + 1#4 := by
  unfold encAfter
  split <;> rfl

/-- Settles O15, by the cases of the line that the step takes. -/
theorem encoderNextIndex : Obligations.EncoderNextIndex := by
  intro s t l rest hscript hstep
  rw [step_cons hscript] at hstep
  obtain ⟨es, rfl, rfl⟩ | ⟨r, rfl, hbusy, rfl⟩ | ⟨r, rfl, hidle, rfl⟩ | ⟨rfl, hidle, rfl⟩ |
    ⟨b, rfl, hbusy, -, -, rfl⟩ | ⟨b, last, rfl, rfl⟩ | ⟨rfl, rfl⟩ | ⟨b, bs, rfl, rfl⟩ := runLine_cases hstep
  · rfl
  · exact (if_pos hbusy).symm
  · exact (if_neg (Bool.eq_false_iff.1 hidle)).symm
  · exact (if_neg (Bool.eq_false_iff.1 hidle)).symm
  · exact (encAfter_nextIdx ..).trans (if_pos hbusy).symm
  · exact congrArg EncState.idx (decByte_frame b last (s.withScript rest)).1
  · rfl
  · exact congrArg EncState.idx (decBlock_frame (b :: bs) (s.withScript rest)).1

/-! ### The function `encode` -/

/-- R88: a sequence of four bytes fits as it is. -/
theorem payloadBytes_fit4 {bs : List Byte} (hlen : bs.length = 4) : payloadBytes (fit4 bs) = bs :=
  match bs, hlen with
  | [_, _, _, _], _ => rfl

/-- Settles O40: `encode` makes a frame of the fitted payload and its checksum, and a frame is its fields. -/
theorem encodeProperties : Obligations.EncodeProperties := by
  refine ⟨fun c s d => ⟨rfl, rfl, rfl, ?_, rfl⟩, fun c c' s s' d d' hs hs' hframe => ?_⟩
  · rw [frameEncode, frameDecode_frameBytes, beq_self_eq_true]
    rfl
  · obtain ⟨hcmd, hfit, hdev, -⟩ := frameBytes_inj.1 hframe
    exact ⟨hcmd, by rw [← payloadBytes_fit4 hs, hfit, payloadBytes_fit4 hs'], hdev⟩

end Sys2Proof.Machine
end

section
/-! The family of spec/42_decoder.md: the sub-cases of `DEC.BYTE`, the step on an `rx` event, the index, and the
results. -/

namespace Sys2Proof.Machine

/-! ### A sub-case of DEC.BYTE at its own index -/

section SubCase
variable {i : Instr} {s : State} (k : Idx)

/-- R96: at its own index a sub-case gives its state `t`. -/
theorem exec_of_decAt {t : State} (hexec : exec i s = .next (decAt k (fun _ => t) s)) (hidx : s.dec.idx = k) :
    exec i s = .next t := by
  rw [hexec, decAt_self _ hidx]

/-- R164 to R169: a summed byte is stored and added to the accumulator, and the index advances. -/
theorem exec_of_takeSummed (b : Byte)
    (hexec : exec i s = .next (decAt k (takeSummed k b (memWriteDecF s.dec k b)) s)) (hidx : s.dec.idx = k) :
    exec i s = .next
      { s with dec := { memWriteDecF s.dec k b with acc := (memWriteDecF s.dec k b).acc + b, idx := k + 1#4 } } := by
  rw [hexec, decAt_self _ hidx, ← csumSum_eq_add]
  rfl

end SubCase

/-- Settles O16: the byte is not summed, and the flag is the comparison where it was 0. -/
theorem byteHeadIsCompared : Obligations.ByteHeadIsCompared := by
  intro s b hidx
  refine ⟨s.dec.ferr || b != Config.head, fun hferr => ?_, exec_of_decAt 0#4 rfl hidx⟩
  rw [hferr, Bool.false_or]
  exact decide_not.symm

/-- Settles O17: two bytes that are not summed. -/
theorem byteCommandAndChecksumAreStored : Obligations.ByteCommandAndChecksumAreStored :=
  fun _ _ => ⟨exec_of_decAt 1#4 rfl, exec_of_decAt 8#4 rfl⟩

/-- Settles O18: six bytes that are summed. -/
theorem byteFieldsAreStoredAndSummed : Obligations.ByteFieldsAreStoredAndSummed :=
  fun _ b =>
    ⟨exec_of_takeSummed 2#4 b rfl, exec_of_takeSummed 3#4 b rfl, exec_of_takeSummed 4#4 b rfl,
      exec_of_takeSummed 5#4 b rfl, exec_of_takeSummed 6#4 b rfl, exec_of_takeSummed 7#4 b rfl⟩

/-! ### The overlong state -/

/-- R172, R161: the byte is discarded, and the error is flagged. -/
theorem exec_decByteOver {s : State} (hidx : s.dec.idx = 10#4) (b : Byte) :
    exec (.decByteOver b) s = .next { s with dec := { s.dec with ferr := true } } :=
  exec_of_decAt 10#4 rfl hidx

/-- R172: in the overlong state, with the error flagged as R46(d) says, nothing changes. -/
theorem exec_decByteOver_self {s : State} (hidx : s.dec.idx = 10#4) (hferr : s.dec.ferr = true) (b : Byte) :
    exec (.decByteOver b) s = .next s := by
  rw [exec_decByteOver hidx, ← hferr]

/-- Settles O19: the tenth byte and those after it, each by its own operation. -/
theorem overlongBlockIsDiscarded : Obligations.OverlongBlockIsDiscarded :=
  fun _ b => ⟨exec_of_decAt 9#4 rfl,
    fun hidx => ⟨exec_decByteOver hidx b, fun hferr => exec_decByteOver_self hidx hferr b⟩⟩

/-- R172: a step on a byte without `rx_last` in the overlong state uses up its line. -/
theorem step_rx_overlong {s : State} {b : Byte} {rest : List Line} (hidx : s.dec.idx = 10#4)
    (hferr : s.dec.ferr = true) (hscript : s.env.script = .port (.rx b false) :: rest) :
    step s = .next (s.withScript rest) := by
  have hdec : decode (.rx (BitVec.ofBool false ++ s.dec.idx) b) = .ok (.decByteOver b) := by rw [hidx]; rfl
  rw [step_cons hscript, runLine_of_select_of_decode (s := s.withScript rest) rfl hdec]
  exact exec_decByteOver_self (s := s.withScript rest) hidx hferr b

/-- Settles O25, by induction on the bytes. -/
theorem overlongBlockNeverEndsByItself : Obligations.OverlongBlockNeverEndsByItself := by
  intro s bs rest hidx hferr hscript
  induction bs generalizing s with
  | nil => exact congrArg (fun ls => Host.Outcome.next (s.withScript ls)) hscript
  | cons b bs ih =>
    exact (steps_succ_of_step (step_rx_overlong hidx hferr hscript)).trans (ih _ hidx hferr rfl)

/-! ### The byte with `rx_last` -/

/-- R173 to R176: the result, by the framing verdict. -/
theorem blockResult_eq (d : DecState) (b : Byte) :
    blockResult d b =
      if d.idx.toNat = 9 ∧ d.ferr = false ∧ b = Config.tail then
        { status := if d.acc = d.csrx then .ok else .checksumError, checksumOk := decide (d.acc = d.csrx), cmd := d.cmd,
          p := d.p, dev := d.dev, csum := d.csrx, computed := d.acc }
      else framingErrorResult := by
  have hnine : d.idx.toNat = 9 ↔ d.idx = 9#4 := BitVec.toNat_inj (y := 9#4)
  simp only [hnine, ← framingOk_iff]
  split
  case isTrue hok => exact blockResult_of_framingOk hok
  case isFalse hok => simp [blockResult, hok]

/-- R175, R200: the code of the result, by the two verdicts. -/
theorem blockResult_statusCode (d : DecState) (b : Byte) :
    statusCode (blockResult d b).status =
      if d.idx.toNat = 9 ∧ d.ferr = false ∧ b = Config.tail then (if d.acc = d.csrx then 0#2 else 1#2) else 2#2 := by
  rw [blockResult_eq]
  split
  · by_cases hmatch : d.acc = d.csrx <;> simp [hmatch, statusCode]
  · rfl

/-- R174, R175: `res_checksum_ok` is 1 with the status OK alone. -/
theorem blockResult_checksumOk_iff (d : DecState) (b : Byte) :
    (blockResult d b).checksumOk = true ↔ statusCode (blockResult d b).status = 0#2 := by
  rw [blockResult_eq]
  split
  · by_cases hmatch : d.acc = d.csrx <;> simp [hmatch, statusCode]
  · simp [framingErrorResult, statusCode]

/-- Settles O20: the sub-case reports the block, by the verdict at index 9. -/
theorem tailLastReportsTheBlock : Obligations.TailLastReportsTheBlock := by
  intro s b hidx
  rw [exec_of_decAt (t := reportBlock (blockResult s.dec b) s) 9#4 rfl hidx, blockResult_eq, hidx]
  simp only [BitVec.toNat_ofNat, Nat.reducePow, Nat.reduceMod, true_and]
  rfl

/-! ### The step on an `rx` event -/

/-- R161: a step on an `rx` event. -/
theorem step_rx {s : State} {b : Byte} {last : Bool} {rest : List Line}
    (hscript : s.env.script = .port (.rx b last) :: rest) : step s = .next (decByte b last (s.withScript rest)) :=
  (step_cons hscript).trans (runLine_rx b last _)

/-- R161: the flag after a byte that is not the block's last, by the index as a number. -/
theorem ferrNext_eq (i : Idx) (ferr : Bool) (b : Byte) :
    ferrNext i ferr b = (ferr || decide (i.toNat = 0 ∧ b ≠ Config.head) || decide (9 ≤ i.toNat)) := by
  have hzero : i = 0#4 ↔ i.toNat = 0 := BitVec.toNat_inj.symm
  have hhead : headBad i b = decide (i.toNat = 0 ∧ b ≠ Config.head) := by
    rw [Bool.eq_iff_iff]
    simp [headBad, hzero]
  rw [ferrNext, hhead]

/-- R168, R169: a half of `DEC.DEV` is written at its own offset. -/
theorem memWriteDecF_dev_eq (d : DecState) (k : Idx) (b : Byte) :
    (memWriteDecF d k b).dev =
      if k.toNat = 6 then b ++ d.dev.extractLsb' 0 8
      else if k.toNat = 7 then d.dev.extractLsb' 8 8 ++ b else d.dev := by
  unfold memWriteDecF
  split <;> simp_all <;> rfl

/-- Settles O22: each register after a byte without `rx_last`; with it the result, whose code is by the verdicts. -/
theorem byteStepIsTheCommonPart : Obligations.ByteStepIsTheCommonPart := by
  refine fun s b rest => ⟨fun hscript => ?_, fun hscript => ?_, by intro st; cases st <;> decide⟩
  · have hdec := decByte_notLast_dec b s
    simp only [decIdxNext, ferrNext_eq, memWriteDecF_cmd, memWriteDecF_p, memWriteDecF_dev_eq, memWriteDecF_csrx,
      summedOffset_iff, csumSum_eq_add] at hdec
    rw [step_rx hscript]
    exact congrArg (fun d => Host.Outcome.next ((s.withScript rest).setDec d)) hdec
  · exact ⟨_, _, blockResult_eq s.dec b, blockResult_statusCode s.dec b, blockResult_checksumOk_iff s.dec b,
      step_rx hscript⟩

/-! ### The index and the results under every line -/

/-- R178: the index after a byte without `rx_last`, where it is at most 10. -/
theorem decIdxNext_of_le {i : Idx} (hle : i.toNat ≤ 10) : decIdxNext i = if i = 10#4 then 10#4 else i + 1#4 := by
  revert i
  decide

/-- Settles O23, by the cases of the line that the step takes. -/
theorem decoderNextIndex : Obligations.DecoderNextIndex := by
  intro s t l rest hle hscript hstep
  rw [step_cons hscript] at hstep
  obtain ⟨es, rfl, rfl⟩ | ⟨r, rfl, hbusy, rfl⟩ | ⟨r, rfl, hidle, rfl⟩ | ⟨rfl, hidle, rfl⟩ |
    ⟨b, rfl, hbusy, -, -, rfl⟩ | ⟨b, last, rfl, rfl⟩ | ⟨rfl, rfl⟩ | ⟨b, bs, rfl, rfl⟩ := runLine_cases hstep
  · rfl
  · rfl
  · rfl
  · rfl
  · rfl
  · cases last
    · exact decIdxNext_of_le hle
    · rfl
  · rfl
  · exact congrArg DecState.idx (decBlock_dec b bs _)

/-- R179: a block adds its one result to those before. -/
theorem decBlock_resLog_append (b : Byte) (bs : List Byte) (s : State) :
    ∃ r, (decBlock (b :: bs) s).env.resLog = s.env.resLog ++ [r] := by
  induction bs generalizing b s with
  | nil => exact ⟨_, rfl⟩
  | cons b' bs ih => exact ih b' (decByte b false s)

/-- Settles O24, by the cases of the line that the step takes. -/
theorem oneResultForEachBlockEnd : Obligations.OneResultForEachBlockEnd := by
  intro s t l rest hscript hstep
  rw [step_cons hscript] at hstep
  have hkept : ∃ new : List ResEvent, s.env.resLog = s.env.resLog ++ new ∧ new.length = 0 :=
    ⟨[], (List.append_nil _).symm, rfl⟩
  obtain ⟨es, rfl, rfl⟩ | ⟨r, rfl, hbusy, rfl⟩ | ⟨r, rfl, hidle, rfl⟩ | ⟨rfl, hidle, rfl⟩ |
    ⟨b, rfl, hbusy, -, -, rfl⟩ | ⟨b, last, rfl, rfl⟩ | ⟨rfl, rfl⟩ | ⟨b, bs, rfl, rfl⟩ := runLine_cases hstep
  · exact hkept
  · exact hkept
  · exact hkept
  · exact hkept
  · exact hkept
  · cases last
    · exact hkept
    · exact ⟨[_], rfl, rfl⟩
  · exact hkept
  · obtain ⟨r, hr⟩ := decBlock_resLog_append b bs (s.withScript rest)
    exact ⟨[r], hr, rfl⟩

end Sys2Proof.Machine
end

section
/-! The family of spec/60_exceptions.md: the reports of DEC, their priority, and that no step stops. -/

namespace Sys2Proof.Machine

/-! ### A block of the wrong length -/

/-- R96: an index up to 7 is the three low bits that `SHORT.LAST` has as its operand. -/
theorem idx_eq_append_of_le {k : Idx} (hle : k.toNat ≤ 7) : k = 0#1 ++ k.extractLsb' 0 3 := by
  revert k
  decide

/-- R176, R177, R211: a framing error is reported with nothing but its status, and the decoder is reset. -/
theorem reportBlock_framingErrorResult (s : State) :
    reportBlock framingErrorResult s =
      { enc := s.enc, dec := DecState.reset
        env := afterRes framingErrorResult (decide (s.dec.acc = s.dec.csrx)) s.env } := rfl

/-- Settles O21: each sub-case, at its own index, reports a framing error. -/
theorem wrongLengthIsAFramingError : Obligations.WrongLengthIsAFramingError := by
  refine fun s b => ⟨fun hle => ⟨_, idx_eq_append_of_le hle⟩, fun t ht => ?_⟩
  obtain rfl : t = reportBlock framingErrorResult s := ht.trans (reportBlock_framingErrorResult s).symm
  exact ⟨fun i => exec_of_decAt (0#1 ++ i) rfl, exec_of_decAt 8#4 rfl, exec_of_decAt 10#4 rfl⟩

/-! ### The status of a block -/

/-- R81, R82: ten bytes with the two markers at their offsets are the frames, and nothing else is. -/
theorem envelope_iff {bs : List Byte} :
    (bs.length = 10 ∧ bs[0]? = some Config.head ∧ bs[9]? = some Config.tail) ↔
      ∃ cmd p dev csum, bs = frameBytes cmd p dev csum := by
  constructor
  · rintro ⟨hlen, hhead, htail⟩
    match bs, hlen with
    | [b0, b1, b2, b3, b4, b5, b6, b7, b8, b9], _ =>
      obtain rfl : b0 = Config.head := Option.some.inj hhead
      obtain rfl : b9 = Config.tail := Option.some.inj htail
      exact ⟨b1, _, _, b8, ten_eq_frameBytes ..⟩
  · rintro ⟨cmd, p, dev, csum, rfl⟩
    exact ⟨rfl, rfl, rfl⟩

/-- R201, R202: without a well-formed envelope there is no frame, whatever the checksum. -/
theorem frameDecode_of_not_envelope {bs : List Byte}
    (henv : ¬(bs.length = 10 ∧ bs[0]? = some Config.head ∧ bs[9]? = some Config.tail)) :
    frameDecode bs = (.framingError, none) :=
  (frameDecode_cases bs).resolve_left fun hframe => henv (envelope_iff.2 hframe)

/-- R203: within a well-formed envelope byte 8 is compared with the checksum of offsets 2 to 7, and there is a frame. -/
theorem frameDecode_of_envelope {bs : List Byte}
    (henv : bs.length = 10 ∧ bs[0]? = some Config.head ∧ bs[9]? = some Config.tail) :
    (frameDecode bs).1 = (if bs[8]? = some (checksum ((bs.take 8).drop 2)) then .ok else .checksumError) ∧
      (frameDecode bs).2 ≠ none := by
  obtain ⟨cmd, p, dev, csum, rfl⟩ := envelope_iff.1 henv
  have hcsum : (frameBytes cmd p dev csum)[8]? = some csum := rfl
  have hsummed : ((frameBytes cmd p dev csum).take 8).drop 2 = summedBytes p dev := rfl
  rw [frameDecode_frameBytes, hcsum, hsummed]
  exact ⟨by simp [eq_comm (a := csum)], nofun⟩

/-- Settles O39: the envelope, which is length and markers, is tested before the checksum. -/
theorem statusByPriority : Obligations.StatusByPriority := by
  intro bs
  by_cases henv : bs.length = 10 ∧ bs[0]? = some Config.head ∧ bs[9]? = some Config.tail
  case pos =>
    obtain ⟨hstatus, hframe⟩ := frameDecode_of_envelope henv
    obtain ⟨hlen, hhead, htail⟩ : bs.length = 10 ∧ bs[0]? = some 0xAA#8 ∧ bs[9]? = some 0xAB#8 := henv
    rw [hstatus, hlen, hhead, htail]
    by_cases hsum : bs[8]? = some (checksum ((bs.take 8).drop 2)) <;> simp [hframe, hsum]
  case neg =>
    have hcause : bs.length ≠ 10 ∨ bs[0]? ≠ some 0xAA#8 ∨ bs[9]? ≠ some 0xAB#8 :=
      (not_and_or.1 henv).imp_right not_and_or.1
    have hnot : ∀ {P : Prop}, ¬(bs.length = 10 ∧ bs[0]? = some 0xAA#8 ∧ bs[9]? = some 0xAB#8 ∧ P) :=
      fun ⟨hlen, hhead, htail, _⟩ => henv ⟨hlen, hhead, htail⟩
    rw [frameDecode_of_not_envelope henv]
    exact ⟨iff_of_true rfl hcause, iff_of_false nofun hnot, iff_of_false nofun hnot, iff_of_true rfl rfl⟩

/-! ### No step stops -/

/-- R206, R208: with registers that meet R45 a step goes on. -/
theorem EncInv.step_next {s : State} (h : EncInv s.enc) : ∃ t, Machine.step s = .next t := by
  cases hscript : s.env.script with
  | nil => exact ⟨s, step_nil hscript⟩
  | cons l rest =>
    rw [step_cons hscript]
    exact EncInv.runLine_next (s := s.withScript rest) h l

/-- Settles O45: R45 alone is what a step needs. -/
theorem stepNeverStops : Obligations.StepNeverStops := fun _ ⟨henc, _⟩ => henc.step_next

end Sys2Proof.Machine
end

section
/-! The family of spec/70_reset_and_hazards.md: RESET, waiting, and the endless runs. -/

namespace Sys2Proof.Machine

/-! ### RESET and waiting -/

/-- Settles O1: the one meaning writes both register files and leaves the environment. -/
theorem resetWritesEveryRegister : Obligations.ResetWritesEveryRegister := by
  refine ⟨fun _ => rfl, rfl, fun s t hexec => ?_⟩
  cases hexec
  exact ⟨rfl, rfl⟩

/-- Settles O2: the line selects RESET, and its list of events is not looked at. -/
theorem rstWinsOverCoincidingEvents : Obligations.RstWinsOverCoincidingEvents := by
  intro s es rest hscript
  calc step s = runLine (.rst es) (s.withScript rest) := step_cons hscript
    _ = exec .reset (s.withScript rest) := runLine_rst es (s.withScript rest)

/-- Settles O32: the empty script is `step`'s own first case. -/
theorem waitingChangesNothing : Obligations.WaitingChangesNothing := fun _ hscript => step_nil hscript

/-! ### The one run under an input -/

/-- R45, R46 and the invariants of the traces together: what every state of an endless run meets. -/
def RunInv (s : State) : Prop := RegInv s ∧ TxInv s ∧ ResInv s

/-- R48: an offer touches the events to come alone, which no invariant reads. -/
theorem RunInv.offer {s : State} (h : RunInv s) (e : Option Line) : RunInv (Machine.offer e s) := h

theorem RunInv.step {s t : State} (h : RunInv s) (hstep : Machine.step s = .next t) : RunInv t := by
  obtain ⟨hreg, htx, hres⟩ := h
  exact ⟨hreg.step hstep, stepKeepsTraceInvariants s t hreg htx hres hstep⟩

/-- R246: where the invariants hold, the endless run goes on, whatever is offered. -/
theorem RunInv.step_runOf {input : Nat → Option Line} {wired : Bool} {n : Nat} (h : RunInv (runOf input wired n)) :
    Machine.step (Machine.offer (input n) (runOf input wired n)) = .next (runOf input wired (n + 1)) := by
  obtain ⟨t, hstep⟩ := stepNeverStops _ (h.offer (input n)).1
  rw [hstep, runOf_succ_of_step hstep]

theorem runInv_runOf (input : Nat → Option Line) (wired : Bool) (n : Nat) : RunInv (runOf input wired n) := by
  induction n with
  | zero => exact ⟨regInv_startState [] wired, nofun, nofun⟩
  | succ n ih => exact (ih.offer (input n)).step ih.step_runOf

/-- R246: the steps are a function of the state and of what is offered, so the run is the only one. -/
theorem Run.eq_runOf {input : Nat → Option Line} {wired : Bool} {r : Nat → State} (h : Run input wired r) :
    r = runOf input wired := by
  funext n
  induction n with
  | zero => exact h.start
  | succ n ih =>
    have hstep := h.next n
    rw [ih] at hstep
    exact (runOf_succ_of_step hstep).symm

/-- Settles O58: the invariants hold at the start, every step goes on where they hold, and keeps them. -/
theorem everyInputHasOneEndlessRun : Obligations.EveryInputHasOneEndlessRun := fun input wired =>
  ⟨⟨rfl, fun n => (runInv_runOf input wired n).step_runOf⟩, fun _ h => h.eq_runOf, runInv_runOf input wired⟩

/-! ### One step of a run -/

section Step
variable {input : Nat → Option Line} {wired : Bool} {r : Nat → State} {n : Nat}

/-- Log entry 20: a step of a run waits, or runs the line it takes. -/
theorem Run.taken_cases (h : Run input wired r) (n : Nat) :
    (takenAt input r n = none ∧ r (n + 1) = offer (input n) (r n)) ∨
    ∃ l rest, takenAt input r n = some l ∧ runLine l ((r n).withScript rest) = .next (r (n + 1)) := by
  obtain ⟨hnone, hwait⟩ | ⟨l, rest, hscript, hrun⟩ := step_offer_cases (h.next n)
  · exact .inl ⟨hnone, hwait⟩
  · exact .inr ⟨l, rest, congrArg List.head? hscript, hrun⟩

theorem Run.runLine_of_taken (h : Run input wired r) {l : Line} (htaken : takenAt input r n = some l) :
    ∃ rest, runLine l ((r n).withScript rest) = .next (r (n + 1)) := by
  obtain ⟨hnone, -⟩ | ⟨l', rest, hsome, hrun⟩ := h.taken_cases n
  · rw [hnone] at htaken
    cases htaken
  · rw [htaken] at hsome
    cases hsome
    exact ⟨rest, hrun⟩

/-- R230: a RESET taken in a run leaves the encoder idle. -/
theorem Run.idle_of_rst (h : Run input wired r) {es : List PortEvent} (htaken : takenAt input r n = some (.rst es)) :
    encBusy (r (n + 1)) = false := by
  obtain ⟨rest, hrun⟩ := h.runLine_of_taken htaken
  rw [runLine_rst] at hrun
  rw [← Host.Outcome.next.inj hrun]
  rfl

end Step

/-- Settles O60: a step of a run adds the results that the line it takes ends, and none where it waits. -/
theorem endlessRunReportsAtBlockEnds : Obligations.EndlessRunReportsAtBlockEnds := by
  intro input wired r h n
  obtain ⟨hnone, hwait⟩ | ⟨l, rest, hsome, hrun⟩ := h.taken_cases n
  · rw [hnone, hwait]
    exact ⟨[], (List.append_nil _).symm, rfl⟩
  · rw [hsome]
    exact oneResultForEachBlockEnd ((r n).withScript (l :: rest)) (r (n + 1)) l rest rfl ((step_cons rfl).trans hrun)

/-! ### A request in progress -/

/-- R133: while busy, ENC and its trace are as before after any line but a `tx` handshake and RESET. -/
theorem encTrace_of_busy {l : Line} {s t : State} (hbusy : s.enc.busy = true) (hrst : ∀ es, l ≠ .rst es)
    (htx : l ≠ .port .tx) (hrun : runLine l s = .next t) : encTrace t = encTrace s := by
  match l with
  | .rst es => exact absurd rfl (hrst es)
  | .port .tx => exact absurd rfl htx
  | .port (.encReq q) =>
    rw [runLine_encReq, hbusy] at hrun
    cases hrun
    rfl
  | .port (.rx _ _) | .block _ => exact encTrace_of_decLine rfl hrun

/-- R147: `c` bytes of the request `q` are out, where the trace was `log` before it: the rest of its `ENCODE` is the
other `ENC.EMIT`s of the ten. -/
def Emitted (q : EncReq) (log : List TxEvent) (c : Nat) (s : State) : Prop :=
  ∃ m, c + m = 10 ∧ Encoding q log (List.replicate m (.port .tx)) (encTrace s)

section Emission
variable {q : EncReq} {log : List TxEvent} {c : Nat} {s : State}

theorem Emitted.le_ten (h : Emitted q log c s) : c ≤ 10 := by
  obtain ⟨m, hcount, -⟩ := h
  omega

/-- R143, R147: the encoder is idle only when all ten bytes are out. -/
theorem Emitted.of_idle (h : Emitted q log c s) (hidle : encBusy s = false) :
    c = 10 ∧ s.enc = EncState.reset ∧
      s.env.txLog = log ++ frameEvents (frameEncode q.cmd (requestPayload q) q.dev) := by
  obtain ⟨m, hcount, henc⟩ := h
  cases m with
  | zero => exact ⟨hcount, Prod.mk.inj henc.of_nil⟩
  | succ m =>
    generalize hls : List.replicate (m + 1) (Line.port .tx) = ls, htrace : encTrace s = tr at henc
    cases henc with
    | waiting => cases hls
    | sending _ busy => cases htrace; exact absurd (busy.symm.trans hidle) nofun
    | done => cases hls

/-- R132: while the encoder is busy a `tx` handshake puts one byte more out. -/
theorem Emitted.emit (h : Emitted q log c s) (hbusy : encBusy s = true) {t : State}
    (hrun : runLine (.port .tx) s = .next t) : Emitted q log (c + 1) t := by
  obtain ⟨m, hcount, henc⟩ := h
  cases m with
  | zero => exact absurd (hbusy.symm.trans (congrArg (·.1.busy) henc.of_nil)) nofun
  | succ m =>
    obtain ⟨t', hrun', hnext⟩ := Encoding.runLine henc
    cases hrun.symm.trans hrun'
    exact ⟨m, by omega, hnext⟩

variable {input : Nat → Option Line} {wired : Bool} {r : Nat → State} {n : Nat}

/-- R245(a): a step of a run that starts busy and is no RESET counts as one byte exactly if it is an `ENC.EMIT`. -/
theorem Emitted.step (h : Emitted q log c (r n)) (hr : Run input wired r) (hbusy : encBusy (r n) = true)
    (hrst : ∀ es, takenAt input r n ≠ some (.rst es)) :
    Emitted q log (c + if emitsAt input r n then 1 else 0) (r (n + 1)) := by
  obtain ⟨hnone, hwait⟩ | ⟨l, rest, hsome, hrun⟩ := hr.taken_cases n
  · have hemits : emitsAt input r n = false := by simp [emitsAt, hnone]
    rw [hemits, hwait]
    exact h
  · by_cases htx : l = .port .tx
    · subst htx
      have hemits : emitsAt input r n = true := by simp [emitsAt, hbusy, hsome]
      rw [hemits]
      exact Emitted.emit (s := (r n).withScript rest) h hbusy hrun
    · have hemits : emitsAt input r n = false := by simp [emitsAt, hsome, htx]
      have hl : ∀ es, l ≠ .rst es := fun es heq => hrst es (heq ▸ hsome)
      have htrace : encTrace (r (n + 1)) = encTrace (r n) :=
        encTrace_of_busy (s := (r n).withScript rest) hbusy hl htx hrun
      rw [hemits, Emitted, htrace]
      exact h

/-- R245(a): through any steps of a run that start busy and are no RESET. -/
theorem Emitted.emitCount (h : Emitted q log 0 (r n)) (hr : Run input wired r) {k : Nat}
    (hbusy : ∀ j, j < k → encBusy (r (n + j)) = true)
    (hrst : ∀ j es, j < k → takenAt input r (n + j) ≠ some (.rst es)) :
    Emitted q log (Machine.emitCount input r n k) (r (n + k)) := by
  induction k with
  | zero => exact h
  | succ k ih =>
    have hsofar := ih (fun j hj => hbusy j (by omega)) fun j es hj => hrst j es (by omega)
    exact hsofar.step hr (hbusy k (by omega)) fun es => hrst k es (by omega)

/-- R131: an idle encoder that takes a request has none of its bytes out yet. -/
theorem Run.emitted_of_request (hr : Run input wired r) (htaken : takenAt input r n = some (.port (.encReq q)))
    (hidle : encBusy (r n) = false) : Emitted q (r n).env.txLog 0 (r (n + 1)) := by
  obtain ⟨rest, hrun⟩ := hr.runLine_of_taken htaken
  obtain ⟨t, hrun', henc⟩ := Encoding.of_request (r := q) (s := (r n).withScript rest) hidle
  cases hrun.symm.trans hrun'
  exact ⟨10, rfl, henc⟩

/-! ### Fairness -/

theorem emitCount_mono (input : Nat → Option Line) (r : Nat → State) (n : Nat) :
    Monotone (emitCount input r n) := monotone_nat_of_le_succ fun _ => Nat.le_add_right _ _

/-- R245(a): with a fair sink an encoder that stays busy emits without bound. -/
theorem TxWeaklyFair.exists_le_emitCount (hfair : TxWeaklyFair input r) (hbusy : ∀ k, encBusy (r (n + k)) = true)
    (c : Nat) : ∃ k, c ≤ emitCount input r n k := by
  induction c with
  | zero => exact ⟨0, Nat.zero_le _⟩
  | succ c ih =>
    obtain ⟨k, hk⟩ := ih
    have hlater : ∀ m, n + k ≤ m → encBusy (r m) = true := fun m hm => by
      rw [← Nat.add_sub_of_le ((Nat.le_add_right n k).trans hm)]
      exact hbusy _
    obtain ⟨m, hm, hemits⟩ := hfair (n + k) hlater
    obtain ⟨d, rfl⟩ := Nat.exists_eq_add_of_le hm
    have hgrown := emitCount_mono input r n (Nat.le_add_right k d)
    refine ⟨k + d + 1, ?_⟩
    rw [Machine.emitCount, ← Nat.add_assoc n k d, hemits, if_pos rfl]
    omega

/-- R245(a): with a fair sink the encoder does not stay busy with a request for ever: it would have emitted more than
its ten bytes, or taken a RESET, which leaves it idle. -/
theorem TxWeaklyFair.exists_idle (hfair : TxWeaklyFair input r) (hr : Run input wired r)
    (h : Emitted q log 0 (r n)) : ∃ k, encBusy (r (n + k)) = false := by
  by_contra hnever
  have hbusy : ∀ k, encBusy (r (n + k)) = true := fun k => by simpa using not_exists.1 hnever k
  have hrst : ∀ j es, takenAt input r (n + j) ≠ some (.rst es) := fun j es htaken =>
    hnever ⟨j + 1, hr.idle_of_rst htaken⟩
  obtain ⟨k, hk⟩ := hfair.exists_le_emitCount hbusy 11
  have hten := (h.emitCount hr (k := k) (fun j _ => hbusy j) fun j es _ => hrst j es).le_ten
  omega

end Emission

/-- Settles O59: up to the first state that is idle again, which a fair sink brings, each `ENC.EMIT` puts out the next
byte of the request. -/
theorem fairSinkCompletesEveryRequest : Obligations.FairSinkCompletesEveryRequest := by
  intro input wired r n q hr hfair htaken hidle
  have hstart := hr.emitted_of_request htaken hidle
  have hexists := hfair.exists_idle hr hstart
  have hfirst : ∀ j, j < Nat.find hexists → encBusy (r (n + 1 + j)) = true := fun j hj => by
    simpa using Nat.find_min hexists hj
  exact ⟨Nat.find hexists, Nat.find_spec hexists, fun hrst =>
    (hstart.emitCount hr hfirst hrst).of_idle (Nat.find_spec hexists)⟩

end Sys2Proof.Machine
end
